-- ==== Sys2Proof/Word.lean ====
section
/-! DEFINITION. The widths of PNGBLK (00_scope.md R11): a byte is 8 bits; a register, a command word and a CRC are 32 bits. -/

namespace Sys2Proof

/-- A byte: one channel of one pixel, one stream byte, one command operand (R11, R102). -/
abbrev Byte := BitVec 8

/-- A 32-bit value: a register, a command word, a CRC, a chunk length (R11). -/
abbrev Word := BitVec 32

end Sys2Proof
end

