-- ==== Sys2Proof/Syntax.lean ====
section
/-! DEFINITION. The commands of PNGBLK, one constructor per row of the opcode table (30_encoding.md R101). -/

namespace Sys2Proof

/-- A command. The byte operand of R102 is the only operand a command word carries; CRC.LD takes its operand from the
DATA register. -/
inductive Instr where
  | nop
  | clrerr
  | srst
  | crcInit
  | crcB (b : Byte)
  | crcLd
  | fltStart
  | fltB (b : Byte)
  | frmStart
  | frmB (b : Byte)
  | frmEos
deriving DecidableEq, Repr

end Sys2Proof
end

