-- ==== Sys2Proof/Decode.lean ====
section
/-! DEFINITION. The command decoder (30_encoding.md R100 to R104), total on every 32-bit word and refusing by name, and the encoder written from the same table (R101). -/

namespace Sys2Proof

/-- The two ways R103 refuses a command word. -/
inductive DecodeError where
  /-- OP is none of the 11 opcodes (code 1). -/
  | undefOp
  /-- RSV is not 0, or B is not 0 where B is no operand (code 2). -/
  | rsvdNonzero
deriving DecidableEq, Repr

/-- OP, bits [31:24] (R100). -/
def opField (w : Word) : Byte := w.extractLsb' 24 8

/-- RSV, bits [23:8] (R100). -/
def rsvField (w : Word) : BitVec 16 := w.extractLsb' 8 16

/-- B, bits [7:0] (R100, R102). -/
def bField (w : Word) : Byte := w.extractLsb' 0 8

/-- The opcode map of R101: the command of opcode `op` with byte operand `b`. -/
def commandOf (op b : Byte) : Option Instr :=
  if op = 0x00 then some .nop
  else if op = 0x01 then some .clrerr
  else if op = 0x02 then some .srst
  else if op = 0x10 then some .crcInit
  else if op = 0x11 then some (.crcB b)
  else if op = 0x12 then some .crcLd
  else if op = 0x20 then some .fltStart
  else if op = 0x21 then some (.fltB b)
  else if op = 0x30 then some .frmStart
  else if op = 0x31 then some (.frmB b)
  else if op = 0x32 then some .frmEos
  else none

/-- The commands whose word carries a byte operand (R102). -/
def Instr.takesByte : Instr → Bool
  | .crcB _ | .fltB _ | .frmB _ => true
  | .nop | .clrerr | .srst | .crcInit | .crcLd | .fltStart | .frmStart | .frmEos => false

/-- R103, in its order: the first case that applies decides. -/
def decode (w : Word) : Except DecodeError Instr :=
  match commandOf (opField w) (bField w) with
  | none => .error .undefOp
  | some i =>
    if rsvField w ≠ 0 then .error .rsvdNonzero
    else if i.takesByte = false ∧ bField w ≠ 0 then .error .rsvdNonzero
    else .ok i

/-- The word of a command: its row's match bits (R101), or-ed with its byte operand (R106). -/
def encode : Instr → Word
  | .nop => 0x00000000
  | .clrerr => 0x01000000
  | .srst => 0x02000000
  | .crcInit => 0x10000000
  | .crcB b => 0x11000000 ||| b.setWidth 32
  | .crcLd => 0x12000000
  | .fltStart => 0x20000000
  | .fltB b => 0x21000000 ||| b.setWidth 32
  | .frmStart => 0x30000000
  | .frmB b => 0x31000000 ||| b.setWidth 32
  | .frmEos => 0x32000000

/-- A command's mnemonic in the opcode table (R101). -/
def Instr.mnemonic : Instr → String
  | .nop => "NOP"
  | .clrerr => "CLRERR"
  | .srst => "SRST"
  | .crcInit => "CRC.INIT"
  | .crcB _ => "CRC.B"
  | .crcLd => "CRC.LD"
  | .fltStart => "FLT.START"
  | .fltB _ => "FLT.B"
  | .frmStart => "FRM.START"
  | .frmB _ => "FRM.B"
  | .frmEos => "FRM.EOS"

/-- One row of the opcode table of R101. -/
structure OpcodeRow where
  mnemonic : String
  matchBits : Word
  mask : Word
deriving DecidableEq, Repr

/-- The opcode table of R101, row by row. -/
def opcodeTable : List OpcodeRow :=
  [ { mnemonic := "NOP", matchBits := 0x00000000, mask := 0xFFFFFFFF },
    { mnemonic := "CLRERR", matchBits := 0x01000000, mask := 0xFFFFFFFF },
    { mnemonic := "SRST", matchBits := 0x02000000, mask := 0xFFFFFFFF },
    { mnemonic := "CRC.INIT", matchBits := 0x10000000, mask := 0xFFFFFFFF },
    { mnemonic := "CRC.B", matchBits := 0x11000000, mask := 0xFFFFFF00 },
    { mnemonic := "CRC.LD", matchBits := 0x12000000, mask := 0xFFFFFFFF },
    { mnemonic := "FLT.START", matchBits := 0x20000000, mask := 0xFFFFFFFF },
    { mnemonic := "FLT.B", matchBits := 0x21000000, mask := 0xFFFFFF00 },
    { mnemonic := "FRM.START", matchBits := 0x30000000, mask := 0xFFFFFFFF },
    { mnemonic := "FRM.B", matchBits := 0x31000000, mask := 0xFFFFFF00 },
    { mnemonic := "FRM.EOS", matchBits := 0x32000000, mask := 0xFFFFFFFF } ]

/-- The word that the host's numbering (`nbits` bits of `w`, every higher bit 0) stands for. A command is one 32-bit
word (R100), so the numbering of the opcode table is the word's own. -/
def tableWord (nbits w : Nat) : Word := BitVec.ofNat 32 (w % 2 ^ nbits)

/-- The command this decoder reads from a word of the opcode table. -/
def decodeTableWord (nbits w : Nat) : Option Instr :=
  match decode (tableWord nbits w) with
  | .ok i => some i
  | .error _ => none

end Sys2Proof
end

