-- ==== Sys2Proof/Config.lean ====
section
/-! DEFINITION. What surrounds one PNGBLK instance: its implementation parameters (00_scope.md R10), the host's transactions on its bus (R8, 20_memory.md R74, R75, R78), and the free values, which the spec leaves open and which have no body. -/

namespace Sys2Proof

/-- The implementation parameters of R10, fixed for an instance (10_state.md R30). A model takes them as arguments:
every statement about all states is a statement about all parameters (log entry 2). -/
structure Params where
  /-- MAXROW, the capacity in bytes of each row buffer; at most 2^32 - 1 by its type, at least 1 by `Params.wf`. -/
  maxRow : Fin 4294967296
  /-- BASE, the host bus address of register offset 0x00. -/
  base : Nat
deriving DecidableEq, Repr

/-- The width of a host access. Only 32-bit accesses are PNGBLK transactions (20_memory.md R78). -/
inductive AccessWidth where
  | w8
  | w16
  | w32
deriving DecidableEq, Repr

/-- What the host can do to the block (R8): a write access or a read access at a bus address, or the hardware reset
(70_reset_and_hazards.md R341). -/
inductive HostEvent where
  | write (width : AccessWidth) (addr : Nat) (value : Word)
  | read (width : AccessWidth) (addr : Nat)
  | reset
deriving DecidableEq, Repr

/-- The parameters of the instance `State.reset` describes. DESIGN CHOICE (log entry 2): MAXROW = 1048576, the value
95_test_vectors.md uses unless it says otherwise, and BASE = 0. No statement rests on either value. -/
def Config.params : Params := { maxRow := 1048576, base := 0 }

/-- FREE VALUE (log entry 3): byte `i` of PREV while nothing has been written to it since the `draw`-th reset or
FLT.START (10_state.md R61, 70_reset_and_hazards.md R343). -/
opaque Config.unwrittenPrev (draw i : Nat) : Byte

/-- FREE VALUE (log entry 3): byte `i` of CUR while nothing has been written to it since the `draw`-th reset or
FLT.START (10_state.md R61, 70_reset_and_hazards.md R343). -/
opaque Config.unwrittenCur (draw i : Nat) : Byte

end Sys2Proof
end

