-- ==== Sys2Proof/Machine/State.lean ====
section
/-! DEFINITION. The state of PNGBLK (10_state.md), every field plain data, and its value after reset (70_reset_and_hazards.md R340). -/

namespace Sys2Proof.Machine

/-- The states of the FLT unit (R58). -/
inductive FltSt where
  | idle
  | tag
  | data
  | done
  | err
deriving DecidableEq, Repr

/-- The states of the FRM unit (R59). -/
inductive FrmSt where
  | idle
  | sig
  | len
  | type
  | data
  | crc
  | done
  | err
deriving DecidableEq, Repr

/-- The command error codes of STATUS.CMD_ECODE (60_exceptions.md R302). Codes 4 to 15 are never produced. -/
inductive CmdCode where
  | noError
  | undefOp
  | rsvdNonzero
  | notStarted
deriving DecidableEq, Repr

/-- The unit error codes FLT records (60_exceptions.md R301: a unit records only the codes of its own row). -/
inductive FltCode where
  | noError
  | bitDepth
  | colorType
  | dimension
  | filterType
  | overrun
  | rowSize
deriving DecidableEq, Repr

/-- The unit error codes FRM records (60_exceptions.md R301). -/
inductive FrmCode where
  | noError
  | signature
  | crc
  | order
  | missingIend
deriving DecidableEq, Repr

/-- The five filter types (42_filter.md R200). -/
inductive FilterType where
  | none
  | sub
  | up
  | average
  | paeth
deriving DecidableEq, Repr

/-- A record of the output stream FLT_OUT (R63). -/
inductive FltRecord where
  | raw (b : Byte)
deriving DecidableEq, Repr

/-- A record of the output stream FRM_OUT (R63, 43_framing.md R241). -/
inductive FrmRecord where
  | chunkBegin (len type : Word)
  | chunkData (b : Byte)
  | chunkEnd (rx computed : Word) (ok : Bool)
deriving DecidableEq, Repr

/-- The registers of the window (R33), by name. -/
inductive Reg where
  | cmd
  | data
  | status
  | id
  | crcState
  | crcValue
  | fltCfg
  | fltWidth
  | fltHeight
  | fltRowLen
  | fltLHeight
  | fltRow
  | fltCol
  | fltInfo
  | frmCtrl
  | frmLen
  | frmType
  | frmCrcRx
  | frmCrcCalc
  | frmRem
  | frmPos
  | frmNchunk
  | frmInfo
deriving DecidableEq, Repr

/-- The only indexed storage of the block: a row buffer, as the (index, byte) pairs written to it, indexes strictly
rising (`Memory.wf`). An index not listed has not been written since the last reset or FLT.START and reads as a free
value (log entry 3). -/
abbrev Memory := List Host.Cell

/-- The FLT unit: its registers (R40 to R47), its fields of STATUS (R36) and its two row buffers (R61). -/
structure FltUnit where
  /-- FLT_CFG[15:0]; bits [31:16] hold nothing and read 0 (R40). -/
  cfg : BitVec 16
  /-- FLT_WIDTH (R41). -/
  width : Word
  /-- FLT_HEIGHT (R42). -/
  height : Word
  /-- STATUS.FLT_ST (R58). -/
  st : FltSt
  /-- STATUS.FLT_ECODE (R36). -/
  code : FltCode
  /-- FLT_ROWLEN (R43). -/
  rowLen : Word
  /-- FLT_LHEIGHT (R44). -/
  lHeight : Word
  /-- FLT_ROW (R45). -/
  row : Word
  /-- FLT_COL (R46). -/
  col : Word
  /-- FLT_INFO.BPP (R47). -/
  bpp : BitVec 3
  /-- FLT_INFO.HASPRIOR (R47, R62). -/
  hasPrior : Bool
  /-- FLT_INFO.FTYPE (R47). -/
  ftype : FilterType
  /-- FLT_INFO.LAST (R47). -/
  last : Byte
  /-- PREV (R61). -/
  prev : Memory
  /-- CUR (R61). -/
  cur : Memory
deriving DecidableEq, Repr

/-- The FRM unit: its registers (R48 to R56), its fields of STATUS (R36) and FCRC (R60). -/
structure FrmUnit where
  /-- FRM_CTRL[2:0]; bits [31:3] hold nothing and read 0 (R48). -/
  ctrl : BitVec 3
  /-- STATUS.FRM_ST (R59). -/
  st : FrmSt
  /-- STATUS.FRM_ECODE (R36). -/
  code : FrmCode
  /-- FRM_LEN (R49). -/
  len : Word
  /-- FRM_TYPE (R50). -/
  ctype : Word
  /-- FRM_CRCRX (R51). -/
  crcRx : Word
  /-- FRM_REM (R53). -/
  rem : Word
  /-- FRM_POS (R54). -/
  pos : Word
  /-- FRM_NCHUNK (R55). -/
  nchunk : Word
  /-- FRM_INFO.FIDX (R56). -/
  fidx : BitVec 4
  /-- FRM_INFO.IHDR_SEEN (R56, R62). -/
  ihdrSeen : Bool
  /-- FRM_INFO.PHYS_SEEN (R56, R62). -/
  physSeen : Bool
  /-- FRM_INFO.IDAT_SEEN (R56, R62). -/
  idatSeen : Bool
  /-- FRM_INFO.LCTRL: bit 0 SIGCHK, bit 1 CRCCHK, bit 2 ORDCHK (R56). -/
  lctrl : BitVec 3
  /-- STATUS.FRM_TRAIL (R36, R62). -/
  trail : Bool
  /-- STATUS.FRM_CRCBAD (R36, R62). -/
  crcBad : Bool
  /-- FCRC, the running CRC of the current chunk (R60). -/
  fcrc : Word
deriving DecidableEq, Repr

/-- The state (R30): the registers, the row buffers, FCRC and the two output streams; and the model's own fields
`params` (log entry 2), `draw` (log entry 3), `pending` (log entry 1) and `replies` (log entry 5). -/
structure State where
  /-- MAXROW and BASE, fixed for the instance (00_scope.md R10). -/
  params : Params
  /-- DATA (R35). -/
  data : Word
  /-- STATUS.CMD_ECODE (R36). -/
  cmdCode : CmdCode
  /-- CRC_STATE (R38). -/
  crcState : Word
  /-- The FLT unit. -/
  flt : FltUnit
  /-- The FRM unit. -/
  frm : FrmUnit
  /-- FLT_OUT, oldest record first (R63). -/
  fltOut : List FltRecord
  /-- FRM_OUT, oldest record first (R63). -/
  frmOut : List FrmRecord
  /-- How many times the unspecified contents of the row buffers have been drawn anew (log entry 3). -/
  draw : Nat
  /-- The host's events not yet taken, oldest first (log entry 1). -/
  pending : List HostEvent
  /-- The values host reads have returned, oldest first (log entry 5). -/
  replies : List Word
deriving DecidableEq, Repr

/-- Why the machine stops with a fault. -/
inductive Fault where
  /-- Raised by FLT.B alone, when its byte's place in CUR is not one of the MAXROW bytes the buffer has (R61). No state
  that satisfies the invariant of R64 raises it. SAFE: the model stops where the spec names no byte (log entry 4). -/
  | rowBufferRange
deriving DecidableEq, Repr

/-- Why the model gives no next state. -/
inductive Refusal where
  /-- Raised by `exec` for an instruction that has no meaning yet. SAFE: nothing is claimed of it. -/
  | notModelled (mnemonic : String)
  /-- Raised by `step` for a host access that is not an aligned 32-bit access in the window: the spec gives it no
  meaning and says a model refuses it (20_memory.md R78). SAFE: nothing is claimed of it (log entry 6). -/
  | notATransaction
deriving DecidableEq, Repr

/-- The FLT unit after reset (70_reset_and_hazards.md R340; the row buffers as R343 says). -/
def FltUnit.reset : FltUnit where
  cfg := 0x0800
  width := 0
  height := 0
  st := .idle
  code := .noError
  rowLen := 0
  lHeight := 0
  row := 0
  col := 0
  bpp := 0
  hasPrior := false
  ftype := .none
  last := 0
  prev := []
  cur := []

/-- The FRM unit after reset (70_reset_and_hazards.md R340). -/
def FrmUnit.reset : FrmUnit where
  ctrl := 0x7
  st := .idle
  code := .noError
  len := 0
  ctype := 0
  crcRx := 0
  rem := 0
  pos := 0
  nchunk := 0
  fidx := 0
  ihdrSeen := false
  physSeen := false
  idatSeen := false
  lctrl := 0
  trail := false
  crcBad := false
  fcrc := 0xFFFFFFFF

/-- The instance with parameters `p` after power-on and reset (70_reset_and_hazards.md R340, 10_state.md R63). -/
def State.resetWith (p : Params) : State where
  params := p
  data := 0
  cmdCode := .noError
  crcState := 0xFFFFFFFF
  flt := FltUnit.reset
  frm := FrmUnit.reset
  fltOut := []
  frmOut := []
  draw := 0
  pending := []
  replies := []

/-- The machine right after reset (R340), with the parameters of `Config.params` (log entry 2). -/
def State.reset : State := State.resetWith Config.params

end Sys2Proof.Machine
end

