-- ==== Sys2Proof/Machine/Flags.lean ====
section
/-! DEFINITION. The fields software sees packed in words: state encodings (10_state.md R58, R59), error code numbers (60_exceptions.md R301, R302), the words STATUS, FLT_INFO and FRM_INFO (R36, R47, R56); and the rules of the flags (R62, 43_framing.md R255, R256). -/

namespace Sys2Proof.Machine

/-- R58. -/
def FltSt.bits : FltSt → BitVec 3
  | .idle => 0
  | .tag => 1
  | .data => 2
  | .done => 3
  | .err => 4

/-- R59. -/
def FrmSt.bits : FrmSt → BitVec 3
  | .idle => 0
  | .sig => 1
  | .len => 2
  | .type => 3
  | .data => 4
  | .crc => 5
  | .done => 6
  | .err => 7

/-- 60_exceptions.md R302. -/
def CmdCode.bits : CmdCode → BitVec 4
  | .noError => 0
  | .undefOp => 1
  | .rsvdNonzero => 2
  | .notStarted => 3

/-- 60_exceptions.md R301, the FLT rows. -/
def FltCode.bits : FltCode → BitVec 4
  | .noError => 0
  | .bitDepth => 5
  | .colorType => 6
  | .dimension => 7
  | .filterType => 8
  | .overrun => 9
  | .rowSize => 10

/-- 60_exceptions.md R301, the FRM rows. -/
def FrmCode.bits : FrmCode → BitVec 4
  | .noError => 0
  | .signature => 1
  | .crc => 2
  | .order => 3
  | .missingIend => 4

/-- The tag byte of a filter type, as FLT_INFO.FTYPE shows it (R47, 42_filter.md R200). -/
def FilterType.bits : FilterType → BitVec 3
  | .none => 0
  | .sub => 1
  | .up => 2
  | .average => 3
  | .paeth => 4

/-- A field of a register word: `v` with its bit 0 at bit `lo` of the word. -/
def fieldAt {n : Nat} (lo : Nat) (v : BitVec n) : Word := v.setWidth 32 <<< lo

/-- STATUS (R36): each field at its low bit; the bits no field covers are reserved and read 0. -/
def State.status (s : State) : Word :=
  fieldAt 0 s.flt.st.bits ||| fieldAt 4 s.frm.st.bits ||| fieldAt 8 s.cmdCode.bits ||| fieldAt 16 s.flt.code.bits |||
    fieldAt 20 s.frm.code.bits ||| fieldAt 24 (BitVec.ofBool s.frm.trail) ||| fieldAt 25 (BitVec.ofBool s.frm.crcBad)

/-- FLT_INFO (R47): BPP, HASPRIOR, FTYPE and LAST at their low bits. -/
def FltUnit.info (f : FltUnit) : Word :=
  fieldAt 0 f.bpp ||| fieldAt 3 (BitVec.ofBool f.hasPrior) ||| fieldAt 4 f.ftype.bits ||| fieldAt 8 f.last

/-- FRM_INFO (R56): FIDX, the seen flags and LCTRL at their low bits. -/
def FrmUnit.info (f : FrmUnit) : Word :=
  fieldAt 0 f.fidx ||| fieldAt 4 (BitVec.ofBool f.ihdrSeen) ||| fieldAt 5 (BitVec.ofBool f.physSeen) |||
    fieldAt 6 (BitVec.ofBool f.idatSeen) ||| fieldAt 8 f.lctrl

/-- CRC_VALUE (R39). -/
def State.crcValue (s : State) : Word := s.crcState ^^^ 0xFFFFFFFF

/-- FRM_CRCCALC (R52). -/
def FrmUnit.crcCalc (f : FrmUnit) : Word := f.fcrc ^^^ 0xFFFFFFFF

/-- The chunk type IHDR, its ASCII tag packed first byte highest (43_framing.md R242). -/
def typeIHDR : Word := 0x49484452

/-- The chunk type pHYs (43_framing.md R242). -/
def typePHYS : Word := 0x70485973

/-- The chunk type IDAT (43_framing.md R242). -/
def typeIDAT : Word := 0x49444154

/-- The chunk type IEND (43_framing.md R242). -/
def typeIEND : Word := 0x49454E44

/-- LCTRL.SIGCHK (R48, R56), of a latched or latchable control value. -/
def sigChk (ctrl : BitVec 3) : Bool := ctrl.getLsbD 0

/-- LCTRL.CRCCHK (R48, R56). -/
def crcChk (ctrl : BitVec 3) : Bool := ctrl.getLsbD 1

/-- LCTRL.ORDCHK (R48, R56). -/
def ordChk (ctrl : BitVec 3) : Bool := ctrl.getLsbD 2

/-- OrderViolation(t) of 43_framing.md R255, over the seen flags before this chunk's update. -/
def FrmUnit.orderViolation (f : FrmUnit) (t : Word) : Bool :=
  (!f.ihdrSeen && decide (t ≠ typeIHDR)) ||
    (f.ihdrSeen && decide (t = typeIHDR)) ||
    (decide (t = typePHYS) && (f.physSeen || f.idatSeen)) ||
    (decide (t = typeIEND) && !f.idatSeen)

/-- The update of the seen flags at type completion (43_framing.md R256). -/
def FrmUnit.markSeen (f : FrmUnit) (t : Word) : FrmUnit :=
  { f with
    ihdrSeen := f.ihdrSeen || decide (t = typeIHDR)
    physSeen := f.physSeen || decide (t = typePHYS)
    idatSeen := f.idatSeen || decide (t = typeIDAT) }

end Sys2Proof.Machine
end

