-- ==== Sys2Proof/Machine/Ops.lean ====
section
/-! DEFINITION. The shared operations: the row buffers as memory, the updates of State, raising an error (60_exceptions.md R306, R308), reset (70_reset_and_hazards.md R340, R341), the CRC byte update (41_crc.md R160), field assembly (43_framing.md R248), and the register window (20_memory.md R73 to R75, R78). -/

namespace Sys2Proof.Machine

/-! ### Row buffers -/

/-- The canonical form: indexes strictly rising. -/
abbrev Memory.wf (m : Memory) : Prop := m.Pairwise (fun a b => a.1 < b.1)

/-- The byte written at index `i`, if one has been. -/
def Memory.lookup (m : Memory) (i : Nat) : Option Byte :=
  match m with
  | [] => none
  | (j, b) :: rest => if j = i then some b else Memory.lookup rest i

/-- The byte at index `i`; `unwritten` gives the bytes nothing has written. -/
def Memory.read (m : Memory) (unwritten : Nat → Byte) (i : Nat) : Byte :=
  (m.lookup i).getD (unwritten i)

/-- Write one byte, keeping the canonical form. -/
def Memory.write (m : Memory) (i : Nat) (b : Byte) : Memory :=
  match m with
  | [] => [(i, b)]
  | (j, c) :: rest =>
    if i < j then (i, b) :: (j, c) :: rest
    else if i = j then (i, b) :: rest
    else (j, c) :: Memory.write rest i b

/-- Write `src j` at every index `j < n` (the row copy of 42_filter.md R198). -/
def Memory.copy (m : Memory) (src : Nat → Byte) : Nat → Memory
  | 0 => m
  | n + 1 => (Memory.copy m src n).write n (src n)

/-! ### Updates of State -/

def State.setData (s : State) (v : Word) : State := { s with data := v }

def State.setCmdCode (s : State) (c : CmdCode) : State := { s with cmdCode := c }

def State.setCrc (s : State) (v : Word) : State := { s with crcState := v }

def State.setFlt (s : State) (f : FltUnit) : State := { s with flt := f }

def State.setFrm (s : State) (f : FrmUnit) : State := { s with frm := f }

/-- Append records to FLT_OUT: nothing removes or rewrites a record (R63, 00_scope.md R9). -/
def State.emitFlt (s : State) (rs : List FltRecord) : State := { s with fltOut := s.fltOut ++ rs }

/-- Append records to FRM_OUT (R63, 00_scope.md R9). -/
def State.emitFrm (s : State) (rs : List FrmRecord) : State := { s with frmOut := s.frmOut ++ rs }

/-- The unspecified contents of the row buffers are drawn anew (R61, log entry 3). -/
def State.redraw (s : State) : State := { s with draw := s.draw + 1 }

def State.setPending (s : State) (es : List HostEvent) : State := { s with pending := es }

/-- Return a value to the host (log entry 5). -/
def State.reply (s : State) (v : Word) : State := { s with replies := s.replies ++ [v] }

/-! ### Raising an error -/

/-- The command error code of a refused command word (60_exceptions.md R302). -/
def cmdCodeOf : DecodeError → CmdCode
  | .undefOp => .undefOp
  | .rsvdNonzero => .rsvdNonzero

/-- `raise CmdError(code)` (60_exceptions.md R306): the first code since the last clear is kept. -/
def State.raiseCmd (s : State) (c : CmdCode) : State :=
  match s.cmdCode with
  | .noError => s.setCmdCode c
  | .undefOp | .rsvdNonzero | .notStarted => s

/-- `raise FltError(code)` (60_exceptions.md R308). -/
def FltUnit.raise (f : FltUnit) (c : FltCode) : FltUnit := { f with st := .err, code := c }

/-- `raise FrmError(code)` (60_exceptions.md R308). -/
def FrmUnit.raise (f : FrmUnit) (c : FrmCode) : FrmUnit := { f with st := .err, code := c }

/-! ### Reset -/

/-- Reset, from either of its two sources (70_reset_and_hazards.md R340, R341): every register, FCRC and both unit
states take their reset values, the row buffers become unspecified (R343), and the output streams are unchanged (R63). -/
def State.applyReset (s : State) : State :=
  { s with
    data := 0
    cmdCode := .noError
    crcState := 0xFFFFFFFF
    flt := FltUnit.reset
    frm := FrmUnit.reset
    draw := s.draw + 1 }

/-! ### CRC -/

/-- The preset of a CRC computation (41_crc.md R161, log entry 8). -/
def crcPreset : Word := 0xFFFFFFFF

/-- One bit of the update of 41_crc.md R160. -/
def crcBit (c : Word) : Word := if c.getLsbD 0 then (c >>> 1) ^^^ 0xEDB88320 else c >>> 1

/-- `n` bits of the update of 41_crc.md R160. -/
def crcBits : Nat → Word → Word
  | 0, c => c
  | n + 1, c => crcBits n (crcBit c)

/-- crcStep(c, b), 41_crc.md R160. -/
def crcStep (c : Word) (b : Byte) : Word := crcBits 8 (c ^^^ b.setWidth 32)

/-- crc32(s), 41_crc.md R162 (log entry 8). -/
def crc32 (bs : List Byte) : Word := bs.foldl crcStep crcPreset ^^^ 0xFFFFFFFF

/-! ### Field assembly -/

/-- 43_framing.md R248: the field after its byte number `fidx` arrives. -/
def assemble (field : Word) (fidx : BitVec 4) (b : Byte) : Word :=
  if fidx = 0 then b.setWidth 32 else (field <<< 8) ||| b.setWidth 32

/-! ### The register window -/

/-- The offset of a register (R33). -/
def Reg.offset : Reg → Nat
  | .cmd => 0x00
  | .data => 0x04
  | .status => 0x08
  | .id => 0x0C
  | .crcState => 0x10
  | .crcValue => 0x14
  | .fltCfg => 0x18
  | .fltWidth => 0x1C
  | .fltHeight => 0x20
  | .fltRowLen => 0x24
  | .fltLHeight => 0x28
  | .fltRow => 0x2C
  | .fltCol => 0x30
  | .fltInfo => 0x34
  | .frmCtrl => 0x38
  | .frmLen => 0x3C
  | .frmType => 0x40
  | .frmCrcRx => 0x44
  | .frmCrcCalc => 0x48
  | .frmRem => 0x4C
  | .frmPos => 0x50
  | .frmNchunk => 0x54
  | .frmInfo => 0x58

/-- The defined registers (R33). -/
def allRegs : List Reg :=
  [.cmd, .data, .status, .id, .crcState, .crcValue, .fltCfg, .fltWidth, .fltHeight, .fltRowLen, .fltLHeight, .fltRow,
    .fltCol, .fltInfo, .frmCtrl, .frmLen, .frmType, .frmCrcRx, .frmCrcCalc, .frmRem, .frmPos, .frmNchunk, .frmInfo]

/-- The register at an offset; none at a reserved offset (R57). -/
def regAt (off : Nat) : Option Reg := allRegs.find? (fun r => decide (r.offset = off))

/-- The constant of ID (R37). -/
def idValue : Word := 0x504E4701

/-- The value a host read of a register returns (R34 to R56). -/
def State.readReg (s : State) : Reg → Word
  | .cmd => 0
  | .data => s.data
  | .status => s.status
  | .id => idValue
  | .crcState => s.crcState
  | .crcValue => s.crcValue
  | .fltCfg => s.flt.cfg.setWidth 32
  | .fltWidth => s.flt.width
  | .fltHeight => s.flt.height
  | .fltRowLen => s.flt.rowLen
  | .fltLHeight => s.flt.lHeight
  | .fltRow => s.flt.row
  | .fltCol => s.flt.col
  | .fltInfo => s.flt.info
  | .frmCtrl => s.frm.ctrl.setWidth 32
  | .frmLen => s.frm.len
  | .frmType => s.frm.ctype
  | .frmCrcRx => s.frm.crcRx
  | .frmCrcCalc => s.frm.crcCalc
  | .frmRem => s.frm.rem
  | .frmPos => s.frm.pos
  | .frmNchunk => s.frm.nchunk
  | .frmInfo => s.frm.info

/-- HostRead(off) (20_memory.md R74): a reserved offset returns 0 (R57). -/
def State.hostRead (s : State) (off : Nat) : Word :=
  match regAt off with
  | some r => s.readReg r
  | none => 0

/-- A host write to a register other than CMD (20_memory.md R75): the five writable registers take the bits they hold,
every other register is unchanged. -/
def State.writeReg (s : State) (r : Reg) (v : Word) : State :=
  match r with
  | .data => s.setData v
  | .fltCfg => s.setFlt { s.flt with cfg := v.setWidth 16 }
  | .fltWidth => s.setFlt { s.flt with width := v }
  | .fltHeight => s.setFlt { s.flt with height := v }
  | .frmCtrl => s.setFrm { s.frm with ctrl := v.setWidth 3 }
  | .cmd | .status | .id | .crcState | .crcValue | .fltRowLen | .fltLHeight | .fltRow | .fltCol | .fltInfo | .frmLen
  | .frmType | .frmCrcRx | .frmCrcCalc | .frmRem | .frmPos | .frmNchunk | .frmInfo => s

/-- HostWrite(off, v) at an offset other than CMD's (20_memory.md R75): a write to a reserved offset is ignored (R57). -/
def State.hostWriteReg (s : State) (off : Nat) (v : Word) : State :=
  match regAt off with
  | some r => s.writeReg r v
  | none => s

/-- The register offset of a host access, if it is a transaction (20_memory.md R73, R78): a 32-bit access at a multiple
of 4 from BASE inside the window. -/
def busOffset (p : Params) (width : AccessWidth) (addr : Nat) : Option Nat :=
  match width with
  | .w32 =>
    if p.base ≤ addr ∧ (addr - p.base) % 4 = 0 ∧ addr - p.base < 0x100 then some (addr - p.base) else none
  | .w8 | .w16 => none

end Sys2Proof.Machine
end

