-- ==== Sys2Proof/Machine/Operands.lean ====
section
/-! DEFINITION. The operands commands read: the DATA register for CRC.LD (30_encoding.md R102), the configuration of FLT.START (10_state.md R40, 42_filter.md R191), and the neighbouring bytes of a FLT data step (42_filter.md R197, R199). The byte operand b = w[7:0] of CRC.B, FLT.B and FRM.B is the constructor's own field. -/

namespace Sys2Proof.Machine

/-- The 32-bit operand of CRC.LD: the DATA register (30_encoding.md R102, 41_crc.md R166). -/
def State.dataOperand (s : State) : Word := s.data

/-- FLT_CFG.CT (R40). -/
def FltUnit.ct (f : FltUnit) : Byte := f.cfg.extractLsb' 0 8

/-- FLT_CFG.BD (R40). -/
def FltUnit.bd (f : FltUnit) : Byte := f.cfg.extractLsb' 8 8

/-- channelCount of a colorType (42_filter.md R191); none where the table has no row. -/
def channelCount (ct : Byte) : Option Nat :=
  if ct = 0 then some 1
  else if ct = 4 then some 2
  else if ct = 2 then some 3
  else if ct = 6 then some 4
  else none

/-- The filter type of a tag byte (42_filter.md R196, R200); none above 4. -/
def filterTypeOf (b : Byte) : Option FilterType :=
  if b = 0 then some .none
  else if b = 1 then some .sub
  else if b = 2 then some .up
  else if b = 3 then some .average
  else if b = 4 then some .paeth
  else none

/-- PREV[i] (00_scope.md R16); a byte nothing has written is a free value (log entry 3). -/
def FltUnit.prevByte (draw : Nat) (f : FltUnit) (i : Nat) : Byte := f.prev.read (Config.unwrittenPrev draw) i

/-- CUR[i] (00_scope.md R16); a byte nothing has written is a free value (log entry 3). -/
def FltUnit.curByte (draw : Nat) (f : FltUnit) (i : Nat) : Byte := f.cur.read (Config.unwrittenCur draw) i

/-- left of the data byte at FLT_COL (42_filter.md R197): CUR[i-n], 0 if i < n. -/
def FltUnit.left (draw : Nat) (f : FltUnit) : Byte :=
  if f.bpp.toNat ≤ f.col.toNat then f.curByte draw (f.col.toNat - f.bpp.toNat) else 0

/-- up of the data byte at FLT_COL (42_filter.md R197): PREV[i], 0 on the first row. -/
def FltUnit.up (draw : Nat) (f : FltUnit) : Byte :=
  if f.hasPrior then f.prevByte draw f.col.toNat else 0

/-- upperLeft of the data byte at FLT_COL (42_filter.md R197): PREV[i-n], 0 on the first row or if i < n. -/
def FltUnit.upperLeft (draw : Nat) (f : FltUnit) : Byte :=
  if f.hasPrior = true ∧ f.bpp.toNat ≤ f.col.toNat then f.prevByte draw (f.col.toNat - f.bpp.toNat) else 0

end Sys2Proof.Machine
end

