-- ==== Sys2Proof/Machine/Control.lean ====
section
/-! DEFINITION. The control commands NOP, CLRERR and SRST (40_control.md R133 to R135). -/

namespace Sys2Proof.Machine

/-- NOP (40_control.md R133). -/
def execNop (s : State) : Host.Outcome State Fault Refusal := .next s

/-- CLRERR (40_control.md R134). -/
def execClrerr (s : State) : Host.Outcome State Fault Refusal := .next (s.setCmdCode .noError)

/-- SRST (40_control.md R135): exactly the effect of a hardware reset. -/
def execSrst (s : State) : Host.Outcome State Fault Refusal := .next s.applyReset

end Sys2Proof.Machine
end

