-- ==== Sys2Proof/Machine/Crc.lean ====
section
/-! DEFINITION. The CRC unit's commands CRC.INIT, CRC.B and CRC.LD (41_crc.md R164 to R166). -/

namespace Sys2Proof.Machine

/-- CRC.INIT (41_crc.md R164). -/
def execCrcInit (s : State) : Host.Outcome State Fault Refusal := .next (s.setCrc crcPreset)

/-- CRC.B b (41_crc.md R165). -/
def execCrcB (b : Byte) (s : State) : Host.Outcome State Fault Refusal := .next (s.setCrc (crcStep s.crcState b))

/-- CRC.LD (41_crc.md R166). -/
def execCrcLd (s : State) : Host.Outcome State Fault Refusal := .next (s.setCrc s.dataOperand)

end Sys2Proof.Machine
end

