-- ==== Sys2Proof/Machine/Filter.lean ====
section
/-! DEFINITION. The FLT unit: the predictors (42_filter.md R200 to R202) and the commands FLT.START and FLT.B (R192 to R205). -/

namespace Sys2Proof.Machine

/-- The Paeth predictor over unbounded integers, ties to a, then to b (42_filter.md R201). -/
def paeth (a b c : Byte) : Byte :=
  let p : Int := (a.toNat : Int) + b.toNat - c.toNat
  let pa := (p - a.toNat).natAbs
  let pb := (p - b.toNat).natAbs
  let pc := (p - c.toNat).natAbs
  if pa ≤ pb ∧ pa ≤ pc then a else if pb ≤ pc then b else c

/-- Predict(t, left, up, upperLeft) (42_filter.md R200), an integer in 0..255; the Average sum is not wrapped (R202). -/
def predict (t : FilterType) (left up upperLeft : Byte) : Nat :=
  match t with
  | .none => 0
  | .sub => left.toNat
  | .up => up.toNat
  | .average => (left.toNat + up.toNat) / 2
  | .paeth => (paeth left up upperLeft).toNat

/-- What FLT.START clears before its checks (42_filter.md R192); the row buffers hold nothing written in the image that
starts (10_state.md R61). -/
def FltUnit.cleared (f : FltUnit) : FltUnit :=
  { f with
    code := .noError
    rowLen := 0
    lHeight := 0
    row := 0
    col := 0
    bpp := 0
    hasPrior := false
    ftype := .none
    last := 0
    prev := []
    cur := [] }

/-- FLT.START on the FLT unit (42_filter.md R192): the checks in their order, the row length exact (R193). -/
def FltUnit.start (maxRow : Nat) (f : FltUnit) : FltUnit :=
  if f.bd ≠ 8 then f.cleared.raise .bitDepth
  else
    match channelCount f.ct with
    | none => f.cleared.raise .colorType
    | some n =>
      if f.width = 0 ∨ f.height = 0 then f.cleared.raise .dimension
      else if maxRow < f.width.toNat * n then f.cleared.raise .rowSize
      else
        { f.cleared with
          bpp := BitVec.ofNat 3 n
          rowLen := BitVec.ofNat 32 (f.width.toNat * n)
          lHeight := f.height
          st := .tag }

/-- FLT.START (42_filter.md R192). -/
def execFltStart (s : State) : Host.Outcome State Fault Refusal :=
  .next (s.setFlt (s.flt.start s.params.maxRow.val)).redraw

/-- The tag step (42_filter.md R196). -/
def FltUnit.tagStep (f : FltUnit) (b : Byte) : FltUnit :=
  match filterTypeOf b with
  | none => f.raise .filterType
  | some t => { f with ftype := t, col := 0, st := .data }

/-- The reconstructed byte of a data step (42_filter.md R197, R203): only the final sum is reduced modulo 256. -/
def FltUnit.rawByte (draw : Nat) (f : FltUnit) (b : Byte) : Byte :=
  BitVec.ofNat 8 (b.toNat + predict f.ftype (f.left draw) (f.up draw) (f.upperLeft draw))

/-- Row completion (42_filter.md R198). -/
def FltUnit.completeRow (draw : Nat) (f : FltUnit) : FltUnit :=
  { f with
    prev := f.prev.copy (f.curByte draw) f.rowLen.toNat
    hasPrior := true
    row := f.row + 1
    col := 0
    st := if f.row + 1 = f.lHeight then .done else .tag }

/-- The data step (42_filter.md R197), with row completion (R198) after the last byte of the row. -/
def FltUnit.dataStep (draw : Nat) (f : FltUnit) (b : Byte) : FltUnit :=
  let g := { f with cur := f.cur.write f.col.toNat (f.rawByte draw b), last := f.rawByte draw b }
  if f.col.toNat + 1 < f.rowLen.toNat then { g with col := f.col + 1 } else g.completeRow draw

/-- FLT.B b (42_filter.md R195). The fault is for a place in CUR that does not exist (log entry 4). -/
def execFltB (b : Byte) (s : State) : Host.Outcome State Fault Refusal :=
  match s.flt.st with
  | .idle => .next (s.raiseCmd .notStarted)
  | .err => .next s
  | .done => .next (s.setFlt (s.flt.raise .overrun))
  | .tag => .next (s.setFlt (s.flt.tagStep b))
  | .data =>
    if s.params.maxRow.val ≤ s.flt.col.toNat then .fault .rowBufferRange
    else .next ((s.setFlt (s.flt.dataStep s.draw b)).emitFlt [.raw (s.flt.rawByte s.draw b)])

end Sys2Proof.Machine
end

