-- ==== Sys2Proof/Machine/Framing.lean ====
section
/-! DEFINITION. The FRM unit: its steps (43_framing.md R246 to R257) and the commands FRM.START, FRM.B and FRM.EOS (R243, R245, R258). -/

namespace Sys2Proof.Machine

/-- SIGNATURE[0..7] (43_framing.md R242). -/
def signature : List Byte := [0x89, 0x50, 0x4E, 0x47, 0x0D, 0x0A, 0x1A, 0x0A]

/-- FRM.START on the FRM unit (43_framing.md R243). -/
def FrmUnit.start (f : FrmUnit) : FrmUnit :=
  { f with
    len := 0
    ctype := 0
    crcRx := 0
    fcrc := crcPreset
    rem := 0
    pos := 0
    nchunk := 0
    fidx := 0
    ihdrSeen := false
    physSeen := false
    idatSeen := false
    trail := false
    crcBad := false
    code := .noError
    lctrl := f.ctrl
    st := if sigChk f.ctrl then .sig else .len }

/-- FRM.START (43_framing.md R243). -/
def execFrmStart (s : State) : Host.Outcome State Fault Refusal := .next (s.setFrm s.frm.start)

/-- The signature step (43_framing.md R246, R247). -/
def FrmUnit.sigStep (f : FrmUnit) (b : Byte) : FrmUnit :=
  if signature[f.fidx.toNat]? = some b then
    if f.fidx + 1 = 8 then { f with fidx := 0, st := .len } else { f with fidx := f.fidx + 1 }
  else f.raise .signature

/-- The length step (43_framing.md R249). -/
def FrmUnit.lenStep (f : FrmUnit) (b : Byte) : FrmUnit :=
  let g := { f with len := assemble f.len f.fidx b }
  if f.fidx + 1 = 4 then { g with fidx := 0, st := .type } else { g with fidx := f.fidx + 1 }

/-- Type completion (43_framing.md R252), with the order check (R255) and the seen flags (R256). -/
def FrmUnit.completeType (f : FrmUnit) : FrmUnit × List FrmRecord :=
  if ordChk f.lctrl && f.orderViolation f.ctype then (f.raise .order, [])
  else
    ({ f.markSeen f.ctype with rem := f.len, st := if f.len = 0 then .crc else .data }, [.chunkBegin f.len f.ctype])

/-- The type step (43_framing.md R250). -/
def FrmUnit.typeStep (f : FrmUnit) (b : Byte) : FrmUnit × List FrmRecord :=
  let g :=
    { f with
      ctype := assemble f.ctype f.fidx b
      fcrc := if f.fidx = 0 then crcStep crcPreset b else crcStep f.fcrc b }
  if f.fidx + 1 = 4 then { g with fidx := 0 }.completeType else ({ g with fidx := f.fidx + 1 }, [])

/-- The data step (43_framing.md R251). -/
def FrmUnit.dataStep (f : FrmUnit) (b : Byte) : FrmUnit × List FrmRecord :=
  let g := { f with fcrc := crcStep f.fcrc b, rem := f.rem - 1 }
  (if f.rem - 1 = 0 then { g with fidx := 0, st := .crc } else g, [.chunkData b])

/-- The completion of the CRC field (43_framing.md R253, R257). -/
def FrmUnit.completeCrc (f : FrmUnit) : FrmUnit × List FrmRecord :=
  let ok := decide (f.crcRx = f.crcCalc)
  let g := { f with crcBad := !ok }
  if !ok && crcChk f.lctrl then (g.raise .crc, [])
  else
    ({ g with nchunk := f.nchunk + 1, st := if f.ctype = typeIEND then .done else .len },
      [.chunkEnd f.crcRx f.crcCalc ok])

/-- The CRC step (43_framing.md R253). -/
def FrmUnit.crcFieldStep (f : FrmUnit) (b : Byte) : FrmUnit × List FrmRecord :=
  let g := { f with crcRx := assemble f.crcRx f.fidx b }
  if f.fidx + 1 = 4 then { g with fidx := 0 }.completeCrc else ({ g with fidx := f.fidx + 1 }, [])

/-- The trailing step (43_framing.md R254). -/
def FrmUnit.trailStep (f : FrmUnit) : FrmUnit := { f with trail := true }

/-- A byte consumed: FRM_POS counts it (43_framing.md R245). -/
def FrmUnit.consume (f : FrmUnit) : FrmUnit := { f with pos := f.pos + 1 }

/-- What a FRM step leaves: the unit and the records it emits. -/
def State.afterFrm (s : State) (r : FrmUnit × List FrmRecord) : State := (s.setFrm r.1).emitFrm r.2

/-- FRM.B b (43_framing.md R245). -/
def execFrmB (b : Byte) (s : State) : Host.Outcome State Fault Refusal :=
  match s.frm.st with
  | .idle => .next (s.raiseCmd .notStarted)
  | .err => .next s
  | .sig => .next (s.afterFrm (s.frm.consume.sigStep b, []))
  | .len => .next (s.afterFrm (s.frm.consume.lenStep b, []))
  | .type => .next (s.afterFrm (s.frm.consume.typeStep b))
  | .data => .next (s.afterFrm (s.frm.consume.dataStep b))
  | .crc => .next (s.afterFrm (s.frm.consume.crcFieldStep b))
  | .done => .next (s.afterFrm (s.frm.consume.trailStep, []))

/-- FRM.EOS (43_framing.md R258). -/
def execFrmEos (s : State) : Host.Outcome State Fault Refusal :=
  match s.frm.st with
  | .idle => .next (s.raiseCmd .notStarted)
  | .done | .err => .next s
  | .sig | .len | .type | .data | .crc => .next (s.setFrm (s.frm.raise .missingIend))

end Sys2Proof.Machine
end

