-- ==== Sys2Proof/Machine/Dispatch.lean ====
section
/-! DEFINITION. One arm per command (40_control.md R130): the rule of its opcode runs to completion. -/

namespace Sys2Proof.Machine

def exec (i : Instr) (s : State) : Host.Outcome State Fault Refusal :=
  match i with
  | .nop => Sys2Proof.Machine.execNop s
  | .clrerr => Sys2Proof.Machine.execClrerr s
  | .srst => Sys2Proof.Machine.execSrst s
  | .crcInit => Sys2Proof.Machine.execCrcInit s
  | .crcB b => Sys2Proof.Machine.execCrcB b s
  | .crcLd => Sys2Proof.Machine.execCrcLd s
  | .fltStart => Sys2Proof.Machine.execFltStart s
  | .fltB b => Sys2Proof.Machine.execFltB b s
  | .frmStart => Sys2Proof.Machine.execFrmStart s
  | .frmB b => Sys2Proof.Machine.execFrmB b s
  | .frmEos => Sys2Proof.Machine.execFrmEos s

end Sys2Proof.Machine
end

