-- ==== Sys2Proof/Machine/Step.lean ====
section
/-! DEFINITION. One step: the block serves the host's oldest pending event (00_scope.md R8, 20_memory.md R79, R81; log entry 1). -/

namespace Sys2Proof.Machine

/-- A word written to CMD (40_control.md R130): a refused word records its code (R306) and does nothing else; any other
runs its command. -/
def runWord (w : Word) (s : State) : Host.Outcome State Fault Refusal :=
  match decode w with
  | .error e => .next (s.raiseCmd (cmdCodeOf e))
  | .ok i => exec i s

/-- HostWrite(off, v) (20_memory.md R75). -/
def hostWrite (off : Nat) (v : Word) (s : State) : Host.Outcome State Fault Refusal :=
  if off = Reg.cmd.offset then runWord v s else .next (s.hostWriteReg off v)

/-- One host event: a write or a read transaction (20_memory.md R74, R75), the hardware reset
(70_reset_and_hazards.md R341), or an access that is no transaction, which is refused (20_memory.md R78, log entry 6). -/
def serve (e : HostEvent) (s : State) : Host.Outcome State Fault Refusal :=
  match e with
  | .reset => .next s.applyReset
  | .read width addr =>
    match busOffset s.params width addr with
    | some off => .next (s.reply (s.hostRead off))
    | none => .refused .notATransaction
  | .write width addr v =>
    match busOffset s.params width addr with
    | some off => hostWrite off v s
    | none => .refused .notATransaction

/-- One step: the oldest pending event is served; with none pending the block waits unchanged, for it has no step of
its own (00_scope.md R8, 70_reset_and_hazards.md R344; log entry 1). -/
def step (s : State) : Host.Outcome State Fault Refusal :=
  match s.pending with
  | [] => .next s
  | e :: rest => serve e (s.setPending rest)

/-- The host's next event is the write of that word to CMD, so the next step runs it (log entry 1). -/
def State.withFetchWord (s : State) (nbits w : Nat) : State :=
  s.setPending (.write .w32 (s.params.base + Reg.cmd.offset) (tableWord nbits w) :: s.pending)

end Sys2Proof.Machine
end

