-- ==== Sys2Proof/WellFormed.lean ====
section
/-! DEFINITION. The checks the spec places on what is given to the block from outside: the parameters (00_scope.md R10) and the host's accesses (20_memory.md R78). A term of `Instr` needs no check: its one operand is a byte and every byte is legal (30_encoding.md R102), so every `Instr` is well formed by its type; which command WORDS are legal is the decoder's matter (Decode.lean, R103). -/

namespace Sys2Proof

/-- The constraints of R10: 1 ≤ MAXROW (its upper bound is in its type) and BASE aligned to 256 bytes. -/
def Params.wf (p : Params) : Bool :=
  decide (1 ≤ p.maxRow.val) && decide (p.base % 256 = 0)

/-- R78: a host access is a PNGBLK transaction when it is 32 bits wide, at a multiple of 4 from BASE, and inside the
window of 0x100 bytes. -/
def accessWf (p : Params) (width : AccessWidth) (addr : Nat) : Bool :=
  decide (width = .w32) && decide (p.base ≤ addr) && decide ((addr - p.base) % 4 = 0) &&
    decide (addr - p.base < 0x100)

/-- A host event is one the block serves: a reset, or an access that is a transaction (R78, 70_reset_and_hazards.md R341). -/
def HostEvent.wf (p : Params) : HostEvent → Bool
  | .write width addr _ => accessWf p width addr
  | .read width addr => accessWf p width addr
  | .reset => true

end Sys2Proof
end

