-- ==== Sys2Proof/Safety.lean ====
section
/-! DEFINITION. What claims call a good state: the invariants of 10_state.md R64, with what R61 says the row buffers hold, and the success predicate of 70_reset_and_hazards.md R353. -/

namespace Sys2Proof.Machine

/-- The FLT states in which an image is latched (R64). -/
def FltSt.latched : FltSt → Bool
  | .tag | .data | .done => true
  | .idle | .err => false

/-- The FLT clauses of R64, and R61's account of the row buffers. Log entry 7: R64's clause on FLT_ROW = FLT_LHEIGHT is
taken where an image is latched, since R340 makes both 0 in IDLE. -/
structure FltUnit.Inv (maxRow : Nat) (f : FltUnit) : Prop where
  /-- FLT_ECODE ≠ 0 exactly when FLT_ST = ERR. -/
  code_iff_err : f.code ≠ .noError ↔ f.st = .err
  /-- With an image latched, BPP ∈ {1,2,3,4}. -/
  bpp_range : f.st.latched = true → 1 ≤ f.bpp.toNat ∧ f.bpp.toNat ≤ 4
  /-- With an image latched, 1 ≤ FLT_ROWLEN. -/
  rowLen_pos : f.st.latched = true → 1 ≤ f.rowLen.toNat
  /-- FLT_ROWLEN ≤ MAXROW (R43). -/
  rowLen_le : f.rowLen.toNat ≤ maxRow
  /-- With an image latched, FLT_LHEIGHT ≥ 1. -/
  lHeight_pos : f.st.latched = true → 1 ≤ f.lHeight.toNat
  /-- With an image latched, FLT_ROWLEN is some 32-bit width times BPP. -/
  rowLen_mul : f.st.latched = true → ∃ w : Word, f.rowLen.toNat = w.toNat * f.bpp.toNat
  /-- FLT_ROW ≤ FLT_LHEIGHT. -/
  row_le : f.row.toNat ≤ f.lHeight.toNat
  /-- With an image latched, FLT_ROW = FLT_LHEIGHT exactly when FLT_ST = DONE. -/
  row_eq_iff_done : f.st.latched = true → (f.row = f.lHeight ↔ f.st = .done)
  /-- FLT_COL < FLT_ROWLEN in state DATA. -/
  col_lt : f.st = .data → f.col.toNat < f.rowLen.toNat
  /-- FLT_COL = 0 in every other state. -/
  col_zero : f.st ≠ .data → f.col = 0
  /-- HASPRIOR = 1 exactly when FLT_ROW ≥ 1. -/
  hasPrior_iff : f.hasPrior = true ↔ 1 ≤ f.row.toNat
  /-- PREV is in canonical form. -/
  prev_wf : Memory.wf f.prev
  /-- CUR is in canonical form. -/
  cur_wf : Memory.wf f.cur
  /-- PREV holds nothing beyond its MAXROW bytes. -/
  prev_bound : ∀ c ∈ f.prev, c.1 < maxRow
  /-- CUR holds nothing beyond its MAXROW bytes. -/
  cur_bound : ∀ c ∈ f.cur, c.1 < maxRow
  /-- With a prior row, PREV[0..FLT_ROWLEN-1] has been written in this image (R61). -/
  prev_written : f.hasPrior = true → ∀ j, j < f.rowLen.toNat → (f.prev.lookup j).isSome = true
  /-- CUR[0..FLT_COL-1] has been written in this image (R61). -/
  cur_written : ∀ j, j < f.col.toNat → (f.cur.lookup j).isSome = true

/-- The FRM clauses of R64. -/
structure FrmUnit.Inv (f : FrmUnit) : Prop where
  /-- FRM_ECODE ≠ 0 exactly when FRM_ST = ERR. -/
  code_iff_err : f.code ≠ .noError ↔ f.st = .err
  /-- FIDX ≤ 7 in SIG. -/
  fidx_sig : f.st = .sig → f.fidx.toNat ≤ 7
  /-- FIDX ≤ 3 in LEN, TYPE and CRC. -/
  fidx_field : f.st = .len ∨ f.st = .type ∨ f.st = .crc → f.fidx.toNat ≤ 3
  /-- FIDX = 0 in IDLE, DATA and DONE. -/
  fidx_zero : f.st = .idle ∨ f.st = .data ∨ f.st = .done → f.fidx = 0
  /-- FRM_REM ≥ 1 in DATA. -/
  rem_pos : f.st = .data → 1 ≤ f.rem.toNat

/-- The well-formedness of the whole state (R64), with the constraints on the parameters (00_scope.md R10). -/
structure State.Inv (s : State) : Prop where
  params : s.params.wf = true
  flt : s.flt.Inv s.params.maxRow.val
  frm : s.frm.Inv

/-- A decode succeeded (70_reset_and_hazards.md R353): both units DONE and no error code. -/
def State.decodeSucceeded (s : State) : Bool :=
  decide (s.frm.st = .done) && decide (s.flt.st = .done) && decide (s.flt.code = .noError) &&
    decide (s.frm.code = .noError) && decide (s.cmdCode = .noError)

/-- A step is safe when it does not fault. -/
def State.stepSafe (s : State) : Prop := ∀ r, step s ≠ .fault r

/-! ### Sequences of commands and of bytes, as the laws of R162, R207, R208 and R260 speak of them -/

/-- The commands of a list, one after another (00_scope.md R8); the first stop stops the run. -/
def execAll : List Instr → State → Host.Outcome State Fault Refusal
  | [], s => .next s
  | i :: is, s =>
    match exec i s with
    | .next t => execAll is t
    | .fault r => .fault r
    | .refused r => .refused r

/-- The four bytes of a stream field, first byte most significant (20_memory.md R72, R76). -/
def bigEndian (w : Word) : List Byte :=
  [w.extractLsb' 24 8, w.extractLsb' 16 8, w.extractLsb' 8 8, w.extractLsb' 0 8]

/-- Byte `i` of a row, 0 where there is none (42_filter.md R199). -/
def rowByteAt (row : Option (List Byte)) (i : Nat) : Byte := ((row.getD []).getD i 0)

/-- The forward filter of 42_filter.md R208: byte `i` is (R[i] - Predict(t, left, up, upperLeft)) mod 256, with left = R[i-bpp],
up = P[i], upperLeft = P[i-bpp] and 0 for what is out of range (R199). -/
def forwardFilter (t : FilterType) (bpp : Nat) (prior : Option (List Byte)) (raw : List Byte) : List Byte :=
  (List.range raw.length).map fun i =>
    rowByteAt raw i -
      BitVec.ofNat 8
        (predict t (if bpp ≤ i then rowByteAt raw (i - bpp) else 0) (rowByteAt prior i)
          (if bpp ≤ i then rowByteAt prior (i - bpp) else 0))

/-- The whole encoding rule of a command without operand (30_encoding.md R103): of the words with its opcode, its own
word alone is the command and every other raises RSVD_NONZERO. -/
def EncodedByOneWord (i : Instr) (word : Word) : Prop :=
  ∀ w : Word, w.extractLsb' 24 8 = word.extractLsb' 24 8 →
    decode w = if w = word then .ok i else .error .rsvdNonzero

/-- The whole encoding rule of a command with a byte operand (30_encoding.md R102, R103): of the words with its opcode,
those with RSV = 0 are the command with b = w[7:0], and every other raises RSVD_NONZERO. -/
def EncodedWithByte (f : Byte → Instr) (op : Byte) : Prop :=
  ∀ w : Word, w.extractLsb' 24 8 = op →
    decode w = if w.extractLsb' 8 16 = 0 then .ok (f (w.extractLsb' 0 8)) else .error .rsvdNonzero

end Sys2Proof.Machine
end

