-- ==== Sys2Proof/Certificates/Slice0/Obligations.lean ====
section
/-! DEFINITION. The statements for the provers, from the numbered rules of spec/. -/

open Sys2Proof Sys2Proof.Machine

/-! ### Encoding -/

/-- 30_encoding.md R101, R106: the word of a command decodes to that command, with every byte operand. -/
def Obligations.DecodeOfEncodeGivesTheCommand : Prop :=
  ∀ i : Instr, decode (encode i) = .ok i

/-- 30_encoding.md R103, R104: a command has no other word than its encoding. -/
def Obligations.OnlyTheEncodingDecodesToACommand : Prop :=
  ∀ (w : Word) (i : Instr), decode w = .ok i → encode i = w

/-- R101: a word is the command of a row exactly when (w and mask) = match, and the rows do not overlap. -/
def Obligations.WordIsTheRowsCommandExactlyWhenMasked : Prop :=
  (∀ (w : Word), ∀ r ∈ opcodeTable,
    (w &&& r.mask = r.matchBits ↔ ∃ i, decode w = .ok i ∧ i.mnemonic = r.mnemonic)) ∧
  opcodeTable.Pairwise (fun r q => ∀ w : Word, ¬ (w &&& r.mask = r.matchBits ∧ w &&& q.mask = q.matchBits)) ∧
  (∀ i : Instr, ∃ r ∈ opcodeTable, r.mnemonic = i.mnemonic)

/-- R103: the classification in its order; that a legal word executes the command of op with operand b, whose encoding
it is; and that a refused word records its code, 1 or 2, if CMD_ECODE is 0 and does nothing else. -/
def Obligations.DecoderClassifiesEveryWordInOrder : Prop :=
  ∀ w : Word,
    let op := w.extractLsb' 24 8
    let rsv := w.extractLsb' 8 16
    let b := w.extractLsb' 0 8
    let opcodes : List Byte := [0x00, 0x01, 0x02, 0x10, 0x11, 0x12, 0x20, 0x21, 0x30, 0x31, 0x32]
    let bad : Prop := rsv ≠ 0 ∨ (op ∉ ([0x11, 0x21, 0x31] : List Byte) ∧ b ≠ 0)
    (op ∉ opcodes → decode w = .error .undefOp) ∧
    (op ∈ opcodes → bad → decode w = .error .rsvdNonzero) ∧
    (op ∈ opcodes → ¬ bad → ∃ i, decode w = .ok i ∧ encode i = w ∧ (∀ s, runWord w s = exec i s) ∧
      (op = 0x00 → i = .nop) ∧ (op = 0x01 → i = .clrerr) ∧ (op = 0x02 → i = .srst) ∧ (op = 0x10 → i = .crcInit) ∧
      (op = 0x11 → i = .crcB b) ∧ (op = 0x12 → i = .crcLd) ∧ (op = 0x20 → i = .fltStart) ∧ (op = 0x21 → i = .fltB b) ∧
      (op = 0x30 → i = .frmStart) ∧ (op = 0x31 → i = .frmB b) ∧ (op = 0x32 → i = .frmEos)) ∧
    (cmdCodeOf .undefOp).bits = 1 ∧ (cmdCodeOf .rsvdNonzero).bits = 2 ∧
    (∀ (e : DecodeError) (s : State), decode w = .error e →
      runWord w s = .next { s with cmdCode := if s.cmdCode = .noError then cmdCodeOf e else s.cmdCode })

/-- Words written out from R101 and 95_test_vectors.md decode to their commands, and illegal ones are refused by name. -/
def Obligations.SampleWordsDecodeAsTheSpecWritesThem : Prop :=
  decode 0x02000000 = .ok .srst ∧ decode 0x11000049 = .ok (.crcB 0x49) ∧ decode 0x20000000 = .ok .fltStart ∧
  decode 0x210000FF = .ok (.fltB 0xFF) ∧ decode 0x31000089 = .ok (.frmB 0x89) ∧ decode 0x32000000 = .ok .frmEos ∧
  decode 0x13000000 = .error .undefOp ∧ decode 0x10000001 = .error .rsvdNonzero ∧
  decode 0x11010041 = .error .rsvdNonzero

/-! ### The step and the register window -/

/-- 40_control.md R130: when the oldest pending event is a write of a command word to CMD, the step is exec of that
command, and of a refused word it records the code alone; a pending hardware reset is SRST's effect
(70_reset_and_hazards.md R341); with nothing pending the block waits. That events wait in `pending` is the model's
choice (log entry 1). -/
def Obligations.StepRunsTheDecodedCommand : Prop :=
  (∀ (s : State) (w : Word) (rest : List HostEvent), s.pending = .write .w32 s.params.base w :: rest →
    (∀ i, decode w = .ok i → step s = exec i { s with pending := rest }) ∧
    (∀ e, decode w = .error e →
      step s = .next { s with
        pending := rest
        cmdCode := if s.cmdCode = .noError then cmdCodeOf e else s.cmdCode })) ∧
  (∀ (s : State) (rest : List HostEvent), s.pending = .reset :: rest →
    step s = exec .srst { s with pending := rest }) ∧
  (∀ s : State, s.pending = [] → step s = .next s)

/-- 20_memory.md R78: an access of another width, misaligned or outside the window is refused, and an access that is a
transaction is never refused; the accesses wait in `pending` (log entries 1, 6). -/
def Obligations.OnlyAlignedWordAccessesAreServed : Prop :=
  ∀ (s : State) (width : AccessWidth) (addr : Nat) (e : HostEvent) (rest : List HostEvent),
    (e = .read width addr ∨ ∃ v, e = .write width addr v) → s.pending = e :: rest →
    (width ≠ .w32 ∨ addr < s.params.base ∨ (addr - s.params.base) % 4 ≠ 0 ∨ 0x100 ≤ addr - s.params.base →
      step s = .refused .notATransaction) ∧
    (width = .w32 → s.params.base ≤ addr → (addr - s.params.base) % 4 = 0 → addr - s.params.base < 0x100 →
      ∀ r, step s ≠ .refused r)

/-- 20_memory.md R74, R80: a read returns the register's value and changes nothing; the returned value stands in the
model's own list `replies` (log entry 5). -/
def Obligations.HostReadReturnsTheValueAndChangesNothing : Prop :=
  ∀ (s : State) (off : Nat) (rest : List HostEvent), off % 4 = 0 → off < 0x100 →
    s.pending = .read .w32 (s.params.base + off) :: rest →
    step s = .next { s with pending := rest, replies := s.replies ++ [s.hostRead off] }

/-- 10_state.md R33 to R57: what each offset of the window reads. -/
def Obligations.RegisterWindowReadsTheStateItNames : Prop :=
  ∀ s : State,
    s.hostRead 0x00 = 0 ∧ s.hostRead 0x04 = s.data ∧ s.hostRead 0x08 = s.status ∧ s.hostRead 0x0C = 0x504E4701 ∧
    s.hostRead 0x10 = s.crcState ∧ s.hostRead 0x14 = s.crcState ^^^ 0xFFFFFFFF ∧
    s.hostRead 0x18 = s.flt.cfg.setWidth 32 ∧ s.hostRead 0x1C = s.flt.width ∧ s.hostRead 0x20 = s.flt.height ∧
    s.hostRead 0x24 = s.flt.rowLen ∧ s.hostRead 0x28 = s.flt.lHeight ∧ s.hostRead 0x2C = s.flt.row ∧
    s.hostRead 0x30 = s.flt.col ∧ s.hostRead 0x34 = s.flt.info ∧ s.hostRead 0x38 = s.frm.ctrl.setWidth 32 ∧
    s.hostRead 0x3C = s.frm.len ∧ s.hostRead 0x40 = s.frm.ctype ∧ s.hostRead 0x44 = s.frm.crcRx ∧
    s.hostRead 0x48 = s.frm.fcrc ^^^ 0xFFFFFFFF ∧ s.hostRead 0x4C = s.frm.rem ∧ s.hostRead 0x50 = s.frm.pos ∧
    s.hostRead 0x54 = s.frm.nchunk ∧ s.hostRead 0x58 = s.frm.info ∧ (∀ off, 0x5C ≤ off → s.hostRead off = 0)

/-- 20_memory.md R75: what a host write does at each offset, CMD included, and what the writable registers read back. -/
def Obligations.HostWriteDoesExactlyWhatItsOffsetSays : Prop :=
  ∀ (s : State) (v : Word),
    hostWrite 0x00 v s = runWord v s ∧
    hostWrite 0x04 v s = .next { s with data := v } ∧
    hostWrite 0x1C v s = .next { s with flt := { s.flt with width := v } } ∧
    hostWrite 0x20 v s = .next { s with flt := { s.flt with height := v } } ∧
    (∃ t, hostWrite 0x18 v s = .next t ∧ t = { s with flt := { s.flt with cfg := t.flt.cfg } } ∧
      t.hostRead 0x18 = v &&& 0x0000FFFF) ∧
    (∃ t, hostWrite 0x38 v s = .next t ∧ t = { s with frm := { s.frm with ctrl := t.frm.ctrl } } ∧
      t.hostRead 0x38 = v &&& 0x00000007) ∧
    (∀ off, off ∉ ([0x00, 0x04, 0x18, 0x1C, 0x20, 0x38] : List Nat) → hostWrite off v s = .next s)

/-- 10_state.md R36: the fields of STATUS, its reserved bits, and that a write to it is ignored. -/
def Obligations.StatusShowsEachFieldAtItsBits : Prop :=
  ∀ (s : State) (v : Word),
    s.status.extractLsb' 0 3 = s.flt.st.bits ∧ s.status.getLsbD 3 = false ∧
    s.status.extractLsb' 4 3 = s.frm.st.bits ∧ s.status.getLsbD 7 = false ∧
    s.status.extractLsb' 8 4 = s.cmdCode.bits ∧ s.status.extractLsb' 12 4 = 0 ∧
    s.status.extractLsb' 16 4 = s.flt.code.bits ∧ s.status.extractLsb' 20 4 = s.frm.code.bits ∧
    s.status.getLsbD 24 = s.frm.trail ∧ s.status.getLsbD 25 = s.frm.crcBad ∧ s.status.extractLsb' 26 6 = 0 ∧
    hostWrite 0x08 v s = .next s

/-- 10_state.md R47, R56: the fields of FLT_INFO and FRM_INFO and their reserved bits. -/
def Obligations.InfoWordsShowEachFieldAtItsBits : Prop :=
  ∀ (f : FltUnit) (g : FrmUnit),
    f.info.extractLsb' 0 3 = f.bpp ∧ f.info.getLsbD 3 = f.hasPrior ∧ f.info.extractLsb' 4 3 = f.ftype.bits ∧
    f.info.getLsbD 7 = false ∧ f.info.extractLsb' 8 8 = f.last ∧ f.info.extractLsb' 16 16 = 0 ∧
    g.info.extractLsb' 0 4 = g.fidx ∧ g.info.getLsbD 4 = g.ihdrSeen ∧ g.info.getLsbD 5 = g.physSeen ∧
    g.info.getLsbD 6 = g.idatSeen ∧ g.info.getLsbD 7 = false ∧ g.info.extractLsb' 8 3 = g.lctrl ∧
    g.info.extractLsb' 11 21 = 0

/-! ### Reset and the invariant -/

/-- 40_control.md R135: SRST completes in every state with the same effect as the hardware reset: every register reads
its reset value, FCRC is 0xFFFFFFFF, both units are IDLE, and the output streams are unchanged; no other command changes a
configuration register. (That the model's own fields `params`, `pending` and `replies` are kept is log entries 1, 2, 5.) -/
def Obligations.BothResetsLeaveTheResetValues : Prop :=
  EncodedByOneWord .srst 0x02000000 ∧
  (∀ s : State, ∃ t, exec .srst s = .next t ∧ serve .reset s = .next t ∧
    (∀ off, t.hostRead off =
      if off = 0x0C then 0x504E4701 else if off = 0x10 then 0xFFFFFFFF else if off = 0x18 then 0x00000800
      else if off = 0x38 then 0x00000007 else 0) ∧
    t.frm.fcrc = 0xFFFFFFFF ∧ t.flt.st = .idle ∧ t.frm.st = .idle ∧ t.cmdCode = .noError ∧
    t.flt.code = .noError ∧ t.frm.code = .noError ∧ t.fltOut = s.fltOut ∧ t.frmOut = s.frmOut ∧
    t.params = s.params ∧ t.pending = s.pending ∧ t.replies = s.replies) ∧
  ∀ (i : Instr) (s t : State), i ≠ .srst → exec i s = .next t →
    t.data = s.data ∧ t.flt.cfg = s.flt.cfg ∧ t.flt.width = s.flt.width ∧ t.flt.height = s.flt.height ∧
    t.frm.ctrl = s.frm.ctrl

/-- 10_state.md R33, R63, 70_reset_and_hazards.md R340: after power-on every register reads its reset value and the
streams are empty, whatever the parameters (their values in State.reset are log entry 2). -/
def Obligations.PowerOnStateReadsTheResetValues : Prop :=
  State.reset = State.resetWith Config.params ∧
  ∀ p : Params,
    (∀ off, (State.resetWith p).hostRead off =
      if off = 0x0C then 0x504E4701 else if off = 0x10 then 0xFFFFFFFF else if off = 0x18 then 0x00000800
      else if off = 0x38 then 0x00000007 else 0) ∧
    (State.resetWith p).frm.fcrc = 0xFFFFFFFF ∧ (State.resetWith p).fltOut = [] ∧ (State.resetWith p).frmOut = []

/-- 10_state.md R64 (as log entry 7 reads it): the invariant holds after power-on, for every legal parameter. -/
def Obligations.InvariantHoldsAtPowerOn : Prop :=
  ∀ p : Params, p.wf = true → (State.resetWith p).Inv

/-- 10_state.md R64 (as log entry 7 reads it): every step keeps the invariant. -/
def Obligations.EveryStepKeepsTheInvariant : Prop :=
  ∀ s t : State, s.Inv → step s = .next t → t.Inv

/-- 10_state.md R61, R64: from a state that satisfies the invariant no step reaches a row-buffer place that does not
exist (the model's one fault, log entry 4). -/
def Obligations.NoStepFaultsUnderTheInvariant : Prop :=
  ∀ s : State, s.Inv → s.stepSafe

/-- 00_scope.md R9, R10, 10_state.md R30, R63: a step only appends to the output streams, and never changes the
parameters. -/
def Obligations.EveryStepOnlyAppendsToTheStreams : Prop :=
  ∀ s t : State, step s = .next t →
    s.fltOut <+: t.fltOut ∧ s.frmOut <+: t.frmOut ∧ t.params = s.params

/-! ### Errors -/

/-- 60_exceptions.md R307: what a step may do to a command error once recorded: keep it, or clear it by CLRERR, SRST or
reset. -/
def Obligations.CommandErrorIsClearedOnlyByClrerrOrReset : Prop :=
  ∀ (e : HostEvent) (s t : State), serve e s = .next t → s.cmdCode ≠ .noError →
    t.cmdCode = s.cmdCode ∨
    (t.cmdCode = .noError ∧
      (e = .reset ∨ ∃ w, e = .write .w32 s.params.base w ∧ (decode w = .ok .clrerr ∨ decode w = .ok .srst)))

/-- 60_exceptions.md R306: command errors do not stop the block: what a command does to everything but CMD_ECODE does
not depend on CMD_ECODE. -/
def Obligations.CommandErrorsDoNotStopTheBlock : Prop :=
  ∀ (i : Instr) (s t : State) (c : CmdCode), exec i s = .next t →
    ∃ u, exec i { s with cmdCode := c } = .next u ∧ { u with cmdCode := t.cmdCode } = t

/-- 60_exceptions.md R304: which command can record which code. -/
def Obligations.EachCommandRaisesOnlyItsOwnErrors : Prop :=
  ∀ (i : Instr) (s t : State), exec i s = .next t →
    (t.cmdCode ≠ s.cmdCode → t.cmdCode ≠ .noError →
      t.cmdCode = .notStarted ∧ ((∃ b, i = .fltB b) ∨ (∃ b, i = .frmB b) ∨ i = .frmEos)) ∧
    (t.flt.code ≠ s.flt.code → t.flt.code ≠ .noError →
      (i = .fltStart ∧ t.flt.code.bits ∈ ([5, 6, 7, 10] : List (BitVec 4))) ∨
      ((∃ b, i = .fltB b) ∧ t.flt.code.bits ∈ ([8, 9] : List (BitVec 4)))) ∧
    (t.frm.code ≠ s.frm.code → t.frm.code ≠ .noError →
      ((∃ b, i = .frmB b) ∧ t.frm.code.bits ∈ ([1, 2, 3] : List (BitVec 4))) ∨
      (i = .frmEos ∧ t.frm.code.bits = 4))

/-- 60_exceptions.md R305: a command that puts a unit into ERR emits no record. -/
def Obligations.AnErroringCommandEmitsNoRecord : Prop :=
  ∀ (i : Instr) (s t : State), exec i s = .next t →
    (s.flt.st ≠ .err → t.flt.st = .err → t.fltOut = s.fltOut) ∧
    (s.frm.st ≠ .err → t.frm.st = .err → t.frmOut = s.frmOut)

/-- 60_exceptions.md R309, R310: in ERR a unit keeps all its state and emits nothing, whatever command comes, until its
own START or SRST; and its own data commands then change nothing at all. -/
def Obligations.OnlyStartOrResetLeavesErr : Prop :=
  ∀ (i : Instr) (s : State),
    (s.flt.st = .err → i ≠ .fltStart → i ≠ .srst →
      ∃ t, exec i s = .next t ∧ t.flt = s.flt ∧ t.fltOut = s.fltOut ∧ ((∃ b, i = .fltB b) → t = s)) ∧
    (s.frm.st = .err → i ≠ .frmStart → i ≠ .srst → ∀ t, exec i s = .next t →
      t.frm = s.frm ∧ t.frmOut = s.frmOut ∧ ((∃ b, i = .frmB b) ∨ i = .frmEos → t = s))

/-- 40_control.md R131: a command changes nothing of a unit it does not name. -/
def Obligations.CommandsLeaveOtherUnitsAlone : Prop :=
  ∀ (i : Instr) (s t : State), exec i s = .next t →
    (i = .crcInit ∨ (∃ b, i = .crcB b) ∨ i = .crcLd → t = { s with crcState := t.crcState }) ∧
    (i = .fltStart → t = { s with flt := t.flt, draw := t.draw }) ∧
    ((∃ b, i = .fltB b) → s.flt.st ≠ .idle → t = { s with flt := t.flt, fltOut := t.fltOut }) ∧
    ((∃ b, i = .fltB b) → s.flt.st = .idle → t = { s with cmdCode := t.cmdCode }) ∧
    (i = .frmStart ∨ ((∃ b, i = .frmB b) ∨ i = .frmEos) ∧ s.frm.st ≠ .idle →
      t = { s with frm := t.frm, frmOut := t.frmOut }) ∧
    ((∃ b, i = .frmB b) ∨ i = .frmEos → s.frm.st = .idle → t = { s with cmdCode := t.cmdCode }) ∧
    (i = .fltStart ∨ i = .frmStart → t.fltOut = s.fltOut ∧ t.frmOut = s.frmOut)

/-! ### Control commands -/

/-- 40_control.md R133: NOP completes in every state and changes nothing. -/
def Obligations.NopCompletesAndChangesNothing : Prop :=
  EncodedByOneWord .nop 0x00000000 ∧ ∀ s : State, exec .nop s = .next s

/-- 40_control.md R134: CLRERR completes in every state and clears CMD_ECODE alone. -/
def Obligations.ClrerrClearsTheCommandErrorAlone : Prop :=
  EncodedByOneWord .clrerr 0x01000000 ∧ ∀ s : State, exec .clrerr s = .next { s with cmdCode := .noError }

/-! ### CRC unit -/

/-- 41_crc.md R160: the update is the bit loop, and equals its table form. -/
def Obligations.CrcStepIsTheBitLoopAndTheTableForm : Prop :=
  ∀ (c : Word) (b : Byte),
    crcStep c b =
      (fun c : Word => if c.getLsbD 0 = true then (c >>> 1) ^^^ 0xEDB88320 else c >>> 1)^[8] (c ^^^ b.setWidth 32) ∧
    crcStep c b = (c >>> 8) ^^^ crcStep 0 (((c ^^^ b.setWidth 32) &&& 0xFF).setWidth 8)

/-- 41_crc.md R167: the update is linear over GF(2). -/
def Obligations.CrcStepIsLinear : Prop :=
  ∀ (c d : Word) (a b : Byte), crcStep (c ^^^ d) (a ^^^ b) = crcStep c a ^^^ crcStep d b

/-- 41_crc.md R164: CRC.INIT completes in every state and presets CRC_STATE alone; CRC_VALUE then reads 0. -/
def Obligations.CrcInitPresetsTheRegister : Prop :=
  EncodedByOneWord .crcInit 0x10000000 ∧
  ∀ s : State, ∃ t, exec .crcInit s = .next t ∧ t = { s with crcState := 0xFFFFFFFF } ∧ t.hostRead 0x14 = 0

/-- 41_crc.md R165: CRC.B completes in every state and feeds one byte to CRC_STATE alone. -/
def Obligations.CrcByteFeedsTheRegister : Prop :=
  EncodedWithByte .crcB 0x11 ∧
  ∀ (s : State) (b : Byte), exec (.crcB b) s = .next { s with crcState := crcStep s.crcState b }

/-- 41_crc.md R166: CRC.LD completes in every state and copies DATA into CRC_STATE alone. -/
def Obligations.CrcLoadCopiesData : Prop :=
  EncodedByOneWord .crcLd 0x12000000 ∧
  ∀ s : State, exec .crcLd s = .next { s with crcState := s.data }

/-- 41_crc.md R162, R163: after CRC.INIT and the bytes of a sequence, CRC_VALUE reads crc32 of the sequence, which is
the fold of R162; crc32 of the empty sequence is 0 and of "IEND" 0xAE426082. (The preset and the inversion are the
spec's own from general knowledge, log entry 8.) -/
def Obligations.CrcUnitComputesCrc32OfTheBytesFed : Prop :=
  (∀ (bs : List Byte) (s : State), ∃ t, execAll (.crcInit :: bs.map .crcB) s = .next t ∧
    t = { s with crcState := t.crcState } ∧
    t.hostRead 0x14 = bs.foldl crcStep 0xFFFFFFFF ^^^ 0xFFFFFFFF ∧ t.hostRead 0x14 = crc32 bs) ∧
  crc32 [] = 0 ∧ crc32 [0x49, 0x45, 0x4E, 0x44] = 0xAE426082

/-! ### FLT unit -/

/-- 42_filter.md R191 to R193: FLT.START completes in every state: it clears, checks in order with the row length exact,
and latches, leaving the configuration and the streams alone. (`draw` is the model's own counter, log entry 3.) -/
def Obligations.FltStartChecksInOrderAndLatches : Prop :=
  EncodedByOneWord .fltStart 0x20000000 ∧
  ∀ s : State,
    let bd := s.flt.cfg.extractLsb' 8 8
    let ct := s.flt.cfg.extractLsb' 0 8
    let legal : Prop := ct = 0 ∨ ct = 2 ∨ ct = 4 ∨ ct = 6
    let n : Nat := if ct = 0 then 1 else if ct = 4 then 2 else if ct = 2 then 3 else 4
    ∃ t, exec .fltStart s = .next t ∧ t = { s with flt := t.flt, draw := t.draw } ∧
      t.flt.cfg = s.flt.cfg ∧ t.flt.width = s.flt.width ∧ t.flt.height = s.flt.height ∧
      t.flt.row = 0 ∧ t.flt.col = 0 ∧ t.flt.hasPrior = false ∧ t.flt.ftype = .none ∧ t.flt.last = 0 ∧
      (t.flt.st = .err → t.flt.rowLen = 0 ∧ t.flt.lHeight = 0 ∧ t.flt.bpp = 0) ∧
      (bd ≠ 8 → t.flt.st = .err ∧ t.flt.code = .bitDepth) ∧
      (bd = 8 → ¬ legal → t.flt.st = .err ∧ t.flt.code = .colorType) ∧
      (bd = 8 → legal → s.flt.width = 0 ∨ s.flt.height = 0 → t.flt.st = .err ∧ t.flt.code = .dimension) ∧
      (bd = 8 → legal → s.flt.width ≠ 0 → s.flt.height ≠ 0 → s.params.maxRow.val < s.flt.width.toNat * n →
        t.flt.st = .err ∧ t.flt.code = .rowSize) ∧
      (bd = 8 → legal → s.flt.width ≠ 0 → s.flt.height ≠ 0 → s.flt.width.toNat * n ≤ s.params.maxRow.val →
        t.flt.st = .tag ∧ t.flt.code = .noError ∧ t.flt.bpp.toNat = n ∧
        t.flt.rowLen.toNat = s.flt.width.toNat * n ∧ t.flt.lHeight = s.flt.height)

/-- 42_filter.md R204, R205: FLT.B in IDLE, ERR and DONE. -/
def Obligations.FltByteOutsideAnImage : Prop :=
  ∀ (s : State) (b : Byte),
    (s.flt.st = .idle →
      exec (.fltB b) s = .next { s with cmdCode := if s.cmdCode = .noError then .notStarted else s.cmdCode }) ∧
    (s.flt.st = .err → exec (.fltB b) s = .next s) ∧
    (s.flt.st = .done → exec (.fltB b) s = .next { s with flt := { s.flt with st := .err, code := .overrun } })

/-- 42_filter.md R196: the tag step, for every byte. -/
def Obligations.FltTagByteSelectsTheFilterOrErrs : Prop :=
  ∀ (s : State) (b : Byte), s.flt.st = .tag →
    (b.toNat ≤ 4 → ∃ ft : FilterType, ft.bits.toNat = b.toNat ∧
      exec (.fltB b) s = .next { s with flt := { s.flt with ftype := ft, col := 0, st := .data } }) ∧
    (4 < b.toNat → exec (.fltB b) s = .next { s with flt := { s.flt with st := .err, code := .filterType } })

/-- 42_filter.md R197, R199, R203: the data step reconstructs one byte from the row buffers, with 0 for what is out of
range, and emits it; the last byte of a row completes the row (R198). Holds in every state of the invariant. -/
def Obligations.FltDataByteIsReconstructedFromItsNeighbours : Prop :=
  ∀ (s : State) (b : Byte), s.Inv → s.flt.st = .data →
    let i := s.flt.col.toNat
    let n := s.flt.bpp.toNat
    ∃ (left up ul raw : Byte) (t : State),
      (n ≤ i → s.flt.cur.lookup (i - n) = some left) ∧ (i < n → left = 0) ∧
      (s.flt.hasPrior = true → s.flt.prev.lookup i = some up) ∧ (s.flt.hasPrior = false → up = 0) ∧
      (s.flt.hasPrior = true → n ≤ i → s.flt.prev.lookup (i - n) = some ul) ∧
      (s.flt.hasPrior = false ∨ i < n → ul = 0) ∧
      raw.toNat = (b.toNat + predict s.flt.ftype left up ul) % 256 ∧
      exec (.fltB b) s = .next t ∧ t = { s with flt := t.flt, fltOut := s.fltOut ++ [.raw raw] } ∧
      t.flt.last = raw ∧ t.flt.cur.lookup i = some raw ∧
      (∀ j, j ≠ i → t.flt.cur.lookup j = s.flt.cur.lookup j) ∧
      t.flt.cfg = s.flt.cfg ∧ t.flt.width = s.flt.width ∧ t.flt.height = s.flt.height ∧ t.flt.code = s.flt.code ∧
      t.flt.rowLen = s.flt.rowLen ∧ t.flt.lHeight = s.flt.lHeight ∧ t.flt.bpp = s.flt.bpp ∧
      t.flt.ftype = s.flt.ftype ∧
      (i + 1 < s.flt.rowLen.toNat → t.flt.col.toNat = i + 1 ∧ t.flt.st = .data ∧ t.flt.row = s.flt.row ∧
        t.flt.hasPrior = s.flt.hasPrior ∧ t.flt.prev = s.flt.prev) ∧
      (i + 1 = s.flt.rowLen.toNat → t.flt.col = 0 ∧ t.flt.hasPrior = true ∧
        t.flt.row.toNat = s.flt.row.toNat + 1 ∧
        t.flt.st = (if s.flt.row.toNat + 1 = s.flt.lHeight.toNat then .done else .tag) ∧
        (∀ j, j < s.flt.rowLen.toNat → t.flt.prev.lookup j = t.flt.cur.lookup j) ∧
        (∀ j, s.flt.rowLen.toNat ≤ j → t.flt.prev.lookup j = s.flt.prev.lookup j))

/-- 42_filter.md R200, R202: the predictor of each type, always in 0..255, the Average sum not wrapped; and that the
reconstructed byte is (filt + Predict) mod 256 of the unit's neighbours. -/
def Obligations.PredictorOfEachFilterType : Prop :=
  (∀ left up ul : Byte,
    predict .none left up ul = 0 ∧ predict .sub left up ul = left.toNat ∧ predict .up left up ul = up.toNat ∧
    predict .average left up ul = (left.toNat + up.toNat) / 2 ∧
    predict .paeth left up ul = (paeth left up ul).toNat ∧ (∀ t, predict t left up ul ≤ 255) ∧
    predict .average 128 255 ul = 191) ∧
  ∀ (draw : Nat) (f : FltUnit) (b : Byte),
    (f.rawByte draw b).toNat = (b.toNat + predict f.ftype (f.left draw) (f.up draw) (f.upperLeft draw)) % 256

/-- 42_filter.md R201: Paeth over the integers picks the nearest of a, b, c to a + b - c, ties to a, then to b; the
bounds of its intermediates, and the rule's two examples. -/
def Obligations.PaethPicksTheNearestTiesToAThenB : Prop :=
  ∀ a b c : Byte,
    let p : Int := (a.toNat : Int) + b.toNat - c.toNat
    let dist : Byte → Int := fun x => |p - x.toNat|
    (dist a ≤ dist b ∧ dist a ≤ dist c → paeth a b c = a) ∧
    (¬ (dist a ≤ dist b ∧ dist a ≤ dist c) → dist b ≤ dist c → paeth a b c = b) ∧
    (¬ (dist a ≤ dist b ∧ dist a ≤ dist c) → ¬ dist b ≤ dist c → paeth a b c = c) ∧
    dist (paeth a b c) ≤ dist a ∧ dist (paeth a b c) ≤ dist b ∧ dist (paeth a b c) ≤ dist c ∧
    -255 ≤ p ∧ p ≤ 510 ∧ dist a ≤ 255 ∧ dist b ≤ 255 ∧ dist c ≤ 510 ∧ paeth 0 0 0 = 0 ∧ paeth 10 20 15 = 15

/-- 42_filter.md R194: what FLT.B does to everything but the configuration registers does not depend on them, and it
leaves them as they are. -/
def Obligations.FltBytesReadOnlyTheLatchedValues : Prop :=
  ∀ (s t : State) (b : Byte) (cfg : BitVec 16) (w h : Word), exec (.fltB b) s = .next t →
    exec (.fltB b) { s with flt := { s.flt with cfg := cfg, width := w, height := h } } =
      .next { t with flt := { t.flt with cfg := cfg, width := w, height := h } } ∧
    t.flt.cfg = s.flt.cfg ∧ t.flt.width = s.flt.width ∧ t.flt.height = s.flt.height

/-- 10_state.md R61, 70_reset_and_hazards.md R343: no command's result depends on the unspecified contents of the row
buffers (the free values of log entry 3, drawn with `draw`). -/
def Obligations.UnwrittenRowBytesAreNeverObserved : Prop :=
  ∀ (i : Instr) (s t : State) (d : Nat), s.Inv → exec i s = .next t →
    ∃ u, exec i { s with draw := d } = .next u ∧ { u with draw := t.draw } = t

/-- 42_filter.md R208: feeding a row's tag and its forward-filtered bytes emits exactly the row, for every filter type,
and leaves it as the prior row of the next. -/
def Obligations.FltInvertsTheForwardFilterOnARow : Prop :=
  ∀ (s : State) (ft : FilterType) (prior : Option (List Byte)) (raw : List Byte),
    s.Inv → s.flt.st = .tag → raw.length = s.flt.rowLen.toNat →
    (s.flt.hasPrior = false → prior = none) →
    (s.flt.hasPrior = true → ∃ p, prior = some p ∧ ∀ j, j < s.flt.rowLen.toNat → s.flt.prev.lookup j = p[j]?) →
    ∃ t, execAll (.fltB (ft.bits.setWidth 8) ::
        (forwardFilter ft s.flt.bpp.toNat prior raw).map .fltB) s = .next t ∧
      t = { s with flt := t.flt, fltOut := s.fltOut ++ raw.map .raw } ∧
      t.flt.hasPrior = true ∧ (∀ j, j < s.flt.rowLen.toNat → t.flt.prev.lookup j = raw[j]?) ∧
      t.flt.row.toNat = s.flt.row.toNat + 1 ∧
      t.flt.st = (if s.flt.row.toNat + 1 = s.flt.lHeight.toNat then .done else .tag)

/-- 42_filter.md R207: the bytes of all rows after a successful FLT.START emit FLT_LHEIGHT * FLT_ROWLEN records and end
in DONE. -/
def Obligations.FltCompleteImageEndsInDone : Prop :=
  ∀ (s : State) (rows : List (Byte × List Byte)), s.Inv → s.flt.st = .tag → s.flt.row = 0 →
    rows.length = s.flt.lHeight.toNat →
    (∀ r ∈ rows, r.1.toNat ≤ 4 ∧ r.2.length = s.flt.rowLen.toNat) →
    ∃ t out, execAll ((rows.flatMap fun r => r.1 :: r.2).map .fltB) s = .next t ∧
      (rows.flatMap fun r => r.1 :: r.2).length = s.flt.lHeight.toNat * (1 + s.flt.rowLen.toNat) ∧
      t.fltOut = s.fltOut ++ out ∧ out.length = s.flt.lHeight.toNat * s.flt.rowLen.toNat ∧
      t.flt.st = .done

/-- 42_filter.md R190: the FLT state changes only along the edges of its transition table, each under its condition; a
legal configuration is one that passes the four checks of R192. -/
def Obligations.FltStateChangesOnlyAlongItsTable : Prop :=
  ∀ (i : Instr) (s t : State), s.Inv → exec i s = .next t → t.flt.st ≠ s.flt.st →
    let ct := s.flt.cfg.extractLsb' 0 8
    let n : Nat := if ct = 0 then 1 else if ct = 4 then 2 else if ct = 2 then 3 else 4
    let legal : Prop :=
      s.flt.cfg.extractLsb' 8 8 = 8 ∧ (ct = 0 ∨ ct = 2 ∨ ct = 4 ∨ ct = 6) ∧ s.flt.width ≠ 0 ∧ s.flt.height ≠ 0 ∧
        s.flt.width.toNat * n ≤ s.params.maxRow.val
    (i = .srst ∧ t.flt.st = .idle) ∨
    (i = .fltStart ∧ (t.flt.st = .tag ∧ legal ∨ t.flt.st = .err ∧ ¬ legal)) ∨
    (∃ b, i = .fltB b ∧
      ((s.flt.st = .tag ∧ t.flt.st = .data ∧ b.toNat ≤ 4) ∨ (s.flt.st = .tag ∧ t.flt.st = .err ∧ 4 < b.toNat) ∨
       (s.flt.st = .data ∧ s.flt.col.toNat + 1 = s.flt.rowLen.toNat ∧
         (t.flt.st = .tag ∧ s.flt.row.toNat + 1 ≠ s.flt.lHeight.toNat ∨
          t.flt.st = .done ∧ s.flt.row.toNat + 1 = s.flt.lHeight.toNat)) ∨
       (s.flt.st = .done ∧ t.flt.st = .err)))

/-! ### FRM unit -/

/-- 43_framing.md R243: FRM.START completes in every state, clears the unit, latches FRM_CTRL and enters SIG or LEN. -/
def Obligations.FrmStartClearsAndLatches : Prop :=
  EncodedByOneWord .frmStart 0x30000000 ∧
  ∀ s : State, exec .frmStart s = .next { s with
    frm :=
      { ctrl := s.frm.ctrl
        st := if s.frm.ctrl.getLsbD 0 = true then .sig else .len
        code := .noError
        len := 0
        ctype := 0
        crcRx := 0
        rem := 0
        pos := 0
        nchunk := 0
        fidx := 0
        ihdrSeen := false
        physSeen := false
        idatSeen := false
        lctrl := s.frm.ctrl
        trail := false
        crcBad := false
        fcrc := 0xFFFFFFFF } }

/-- 43_framing.md R245, R254: FRM.B in IDLE, ERR and DONE. -/
def Obligations.FrmByteOutsideAChunk : Prop :=
  ∀ (s : State) (b : Byte),
    (s.frm.st = .idle →
      exec (.frmB b) s = .next { s with cmdCode := if s.cmdCode = .noError then .notStarted else s.cmdCode }) ∧
    (s.frm.st = .err → exec (.frmB b) s = .next s) ∧
    (s.frm.st = .done →
      exec (.frmB b) s = .next { s with frm := { s.frm with pos := s.frm.pos + 1, trail := true } })

/-- 43_framing.md R242, R246, R247: the signature step at each of its eight positions. -/
def Obligations.FrmSignatureByteMatchesOrErrs : Prop :=
  ∀ (s : State) (b : Byte) (k : Nat), s.frm.st = .sig → s.frm.fidx.toNat = k → k ≤ 7 →
    let sigBytes : List Byte := [0x89, 0x50, 0x4E, 0x47, 0x0D, 0x0A, 0x1A, 0x0A]
    (sigBytes[k]? = some b → k < 7 → exec (.frmB b) s =
      .next { s with frm := { s.frm with pos := s.frm.pos + 1, fidx := s.frm.fidx + 1 } }) ∧
    (sigBytes[k]? = some b → k = 7 → exec (.frmB b) s =
      .next { s with frm := { s.frm with pos := s.frm.pos + 1, fidx := 0, st := .len } }) ∧
    (sigBytes[k]? ≠ some b → exec (.frmB b) s =
      .next { s with frm := { s.frm with pos := s.frm.pos + 1, st := .err, code := .signature } })

/-- 43_framing.md R248, R249: the length step at each of its four positions. -/
def Obligations.FrmLengthByteIsAssembled : Prop :=
  ∀ (s : State) (b : Byte), s.frm.st = .len → s.frm.fidx.toNat ≤ 3 →
    let field : Word := if s.frm.fidx = 0 then b.setWidth 32 else (s.frm.len <<< 8) ||| b.setWidth 32
    (s.frm.fidx.toNat < 3 → exec (.frmB b) s =
      .next { s with frm := { s.frm with pos := s.frm.pos + 1, len := field, fidx := s.frm.fidx + 1 } }) ∧
    (s.frm.fidx.toNat = 3 → exec (.frmB b) s =
      .next { s with frm := { s.frm with pos := s.frm.pos + 1, len := field, fidx := 0, st := .type } })

/-- 43_framing.md R250, R252, R255, R256: the type step at each of its four positions; at the fourth the order check,
the seen flags, BEGIN, and the next state. -/
def Obligations.FrmTypeStepAssemblesThenChecksTheOrder : Prop :=
  ∀ (s : State) (b : Byte), s.frm.st = .type → s.frm.fidx.toNat ≤ 3 →
    let t : Word := (s.frm.ctype <<< 8) ||| b.setWidth 32
    let g : FrmUnit := { s.frm with pos := s.frm.pos + 1, ctype := t, fcrc := crcStep s.frm.fcrc b, fidx := 0 }
    let violation : Prop :=
      (s.frm.ihdrSeen = false ∧ t ≠ 0x49484452) ∨ (s.frm.ihdrSeen = true ∧ t = 0x49484452) ∨
      (t = 0x70485973 ∧ (s.frm.physSeen = true ∨ s.frm.idatSeen = true)) ∨
      (t = 0x49454E44 ∧ s.frm.idatSeen = false)
    (s.frm.fidx.toNat < 3 → exec (.frmB b) s =
      .next { s with frm := { s.frm with
        pos := s.frm.pos + 1
        ctype := if s.frm.fidx = 0 then b.setWidth 32 else t
        fcrc := if s.frm.fidx = 0 then crcStep 0xFFFFFFFF b else crcStep s.frm.fcrc b
        fidx := s.frm.fidx + 1 } }) ∧
    (s.frm.fidx.toNat = 3 → s.frm.lctrl.getLsbD 2 = true → violation →
      exec (.frmB b) s = .next { s with frm := { g with st := .err, code := .order } }) ∧
    (s.frm.fidx.toNat = 3 → s.frm.lctrl.getLsbD 2 = false ∨ ¬ violation →
      exec (.frmB b) s = .next { s with
        frm := { g with
          ihdrSeen := s.frm.ihdrSeen || decide (t = 0x49484452)
          physSeen := s.frm.physSeen || decide (t = 0x70485973)
          idatSeen := s.frm.idatSeen || decide (t = 0x49444154)
          rem := s.frm.len
          st := if s.frm.len = 0 then .crc else .data }
        frmOut := s.frmOut ++ [.chunkBegin s.frm.len t] })

/-- 43_framing.md R251: the data step emits the byte, updates the CRC and counts FRM_REM down. -/
def Obligations.FrmDataByteIsReportedAndCounted : Prop :=
  ∀ (s : State) (b : Byte), s.frm.st = .data →
    let g : FrmUnit := { s.frm with pos := s.frm.pos + 1, fcrc := crcStep s.frm.fcrc b, rem := s.frm.rem - 1 }
    (s.frm.rem ≠ 1 → exec (.frmB b) s = .next { s with frm := g, frmOut := s.frmOut ++ [.chunkData b] }) ∧
    (s.frm.rem = 1 → exec (.frmB b) s =
      .next { s with frm := { g with fidx := 0, st := .crc }, frmOut := s.frmOut ++ [.chunkData b] })

/-- 43_framing.md R253, R257: the CRC step at each of its four positions; at the fourth the comparison, FRM_CRCBAD, the
error or END, and the next state. -/
def Obligations.FrmCrcStepAssemblesThenAcceptsOrErrs : Prop :=
  ∀ (s : State) (b : Byte), s.frm.st = .crc → s.frm.fidx.toNat ≤ 3 →
    let rx : Word := (s.frm.crcRx <<< 8) ||| b.setWidth 32
    let computed : Word := s.frm.fcrc ^^^ 0xFFFFFFFF
    let g : FrmUnit := { s.frm with pos := s.frm.pos + 1, crcRx := rx, fidx := 0 }
    let after : FrmSt := if s.frm.ctype = 0x49454E44 then .done else .len
    (s.frm.fidx.toNat < 3 → exec (.frmB b) s =
      .next { s with frm := { s.frm with
        pos := s.frm.pos + 1
        crcRx := if s.frm.fidx = 0 then b.setWidth 32 else rx
        fidx := s.frm.fidx + 1 } }) ∧
    (s.frm.fidx.toNat = 3 → rx = computed → exec (.frmB b) s = .next { s with
      frm := { g with crcBad := false, nchunk := s.frm.nchunk + 1, st := after }
      frmOut := s.frmOut ++ [.chunkEnd rx computed true] }) ∧
    (s.frm.fidx.toNat = 3 → rx ≠ computed → s.frm.lctrl.getLsbD 1 = true → exec (.frmB b) s = .next { s with
      frm := { g with crcBad := true, st := .err, code := .crc } }) ∧
    (s.frm.fidx.toNat = 3 → rx ≠ computed → s.frm.lctrl.getLsbD 1 = false → exec (.frmB b) s = .next { s with
      frm := { g with crcBad := true, nchunk := s.frm.nchunk + 1, st := after }
      frmOut := s.frmOut ++ [.chunkEnd rx computed false] })

/-- 43_framing.md R258: FRM.EOS in every state. -/
def Obligations.FrmEosReportsAMissingIend : Prop :=
  EncodedByOneWord .frmEos 0x32000000 ∧
  ∀ s : State,
    (s.frm.st = .idle →
      exec .frmEos s = .next { s with cmdCode := if s.cmdCode = .noError then .notStarted else s.cmdCode }) ∧
    (s.frm.st = .done ∨ s.frm.st = .err → exec .frmEos s = .next s) ∧
    (s.frm.st ≠ .idle → s.frm.st ≠ .done → s.frm.st ≠ .err →
      exec .frmEos s = .next { s with frm := { s.frm with st := .err, code := .missingIend } })

/-- 43_framing.md R248, 20_memory.md R72: four bytes in LEN assemble FRM_LEN, first byte most significant. -/
def Obligations.FourLengthBytesMakeABigEndianNumber : Prop :=
  ∀ (s : State) (b0 b1 b2 b3 : Byte), s.frm.st = .len → s.frm.fidx = 0 →
    ∃ t, execAll [.frmB b0, .frmB b1, .frmB b2, .frmB b3] s = .next t ∧
      t.frm.len.toNat = b0.toNat * 2 ^ 24 + b1.toNat * 2 ^ 16 + b2.toNat * 2 ^ 8 + b3.toNat ∧
      t.frm.st = .type ∧ t.frm.fidx = 0 ∧ t.frm.pos = s.frm.pos + 4 ∧ t.frmOut = s.frmOut

/-- 43_framing.md R241, R260, R259: a chunk that raises no error is walked by its length field: 12 + L consumed bytes,
BEGIN, one DATA per data byte, END with the computed CRC of type and data, and the next chunk's length field (or DONE)
after it. -/
def Obligations.FrmWalksAChunkByItsLength : Prop :=
  ∀ (s : State) (type crcField : Word) (data : List Byte), s.frm.st = .len → s.frm.fidx = 0 →
    data.length < 2 ^ 32 →
    (s.frm.lctrl.getLsbD 2 = true → s.frm.orderViolation type = false) →
    (s.frm.lctrl.getLsbD 1 = true → crcField = crc32 (bigEndian type ++ data)) →
    ∃ t, execAll
        ((bigEndian (BitVec.ofNat 32 data.length) ++ bigEndian type ++ data ++ bigEndian crcField).map .frmB) s =
          .next t ∧
      t = { s with frm := t.frm, frmOut := t.frmOut } ∧
      t.frmOut = s.frmOut ++ [.chunkBegin (BitVec.ofNat 32 data.length) type] ++ data.map .chunkData ++
        [.chunkEnd crcField (crc32 (bigEndian type ++ data)) (decide (crcField = crc32 (bigEndian type ++ data)))] ∧
      t.frm.pos = s.frm.pos + BitVec.ofNat 32 (12 + data.length) ∧
      t.frm.nchunk = s.frm.nchunk + 1 ∧ t.frm.fidx = 0 ∧ t.frm.len = BitVec.ofNat 32 data.length ∧
      t.frm.ctype = type ∧ t.frm.st = (if type = 0x49454E44 then .done else .len)

/-- 43_framing.md R261: the value of a data byte affects FCRC and the DATA record, and nothing else. -/
def Obligations.DataByteValuesNeverSteerFrm : Prop :=
  ∀ (s t : State) (a b : Byte), s.frm.st = .data → exec (.frmB a) s = .next t →
    exec (.frmB b) s = .next { t with
      frm := { t.frm with fcrc := crcStep s.frm.fcrc b }
      frmOut := s.frmOut ++ [.chunkData b] }

/-- 43_framing.md R244: what FRM.B and FRM.EOS do to everything but FRM_CTRL does not depend on FRM_CTRL, and they leave
it as it is. -/
def Obligations.FrmReadsOnlyTheLatchedControl : Prop :=
  ∀ (i : Instr) (s t : State) (c : BitVec 3), (∃ b, i = .frmB b) ∨ i = .frmEos → exec i s = .next t →
    exec i { s with frm := { s.frm with ctrl := c } } = .next { t with frm := { t.frm with ctrl := c } } ∧
    t.frm.ctrl = s.frm.ctrl

/-- 43_framing.md R240: the FRM state changes only along the edges of its transition table, each under its condition: the
signature byte of R242, the order check of R255, the CRC comparison of R253. -/
def Obligations.FrmStateChangesOnlyAlongItsTable : Prop :=
  ∀ (i : Instr) (s t : State), s.Inv → exec i s = .next t → t.frm.st ≠ s.frm.st →
    (i = .srst ∧ t.frm.st = .idle) ∨
    (i = .frmStart ∧ t.frm.st = (if s.frm.ctrl.getLsbD 0 = true then .sig else .len)) ∨
    (i = .frmEos ∧ t.frm.st = .err ∧ s.frm.st ∈ ([.sig, .len, .type, .data, .crc] : List FrmSt)) ∨
    (∃ b, i = .frmB b ∧
      let sigBytes : List Byte := [0x89, 0x50, 0x4E, 0x47, 0x0D, 0x0A, 0x1A, 0x0A]
      let type : Word := (s.frm.ctype <<< 8) ||| b.setWidth 32
      let violation : Prop :=
        (s.frm.ihdrSeen = false ∧ type ≠ 0x49484452) ∨ (s.frm.ihdrSeen = true ∧ type = 0x49484452) ∨
        (type = 0x70485973 ∧ (s.frm.physSeen = true ∨ s.frm.idatSeen = true)) ∨
        (type = 0x49454E44 ∧ s.frm.idatSeen = false)
      let orderFails : Prop := s.frm.lctrl.getLsbD 2 = true ∧ violation
      let crcFails : Prop :=
        ((s.frm.crcRx <<< 8) ||| b.setWidth 32) ≠ s.frm.fcrc ^^^ 0xFFFFFFFF ∧ s.frm.lctrl.getLsbD 1 = true
      (s.frm.st = .sig ∧ s.frm.fidx = 7 ∧ b = 0x0A ∧ t.frm.st = .len) ∨
      (s.frm.st = .sig ∧ sigBytes[s.frm.fidx.toNat]? ≠ some b ∧ t.frm.st = .err) ∨
      (s.frm.st = .len ∧ s.frm.fidx = 3 ∧ t.frm.st = .type) ∨
      (s.frm.st = .type ∧ s.frm.fidx = 3 ∧ orderFails ∧ t.frm.st = .err) ∨
      (s.frm.st = .type ∧ s.frm.fidx = 3 ∧ ¬ orderFails ∧ s.frm.len ≠ 0 ∧ t.frm.st = .data) ∨
      (s.frm.st = .type ∧ s.frm.fidx = 3 ∧ ¬ orderFails ∧ s.frm.len = 0 ∧ t.frm.st = .crc) ∨
      (s.frm.st = .data ∧ s.frm.rem = 1 ∧ t.frm.st = .crc) ∨
      (s.frm.st = .crc ∧ s.frm.fidx = 3 ∧ crcFails ∧ t.frm.st = .err) ∨
      (s.frm.st = .crc ∧ s.frm.fidx = 3 ∧ ¬ crcFails ∧
        t.frm.st = (if s.frm.ctype = 0x49454E44 then .done else .len)))
end

