-- ==== Sys2Proof/Laws/Decode.lean ====
section
/-! SUPPORT. A command word is its three fields; what or-ing a byte operand into a word does to them; what a decoded word says about them. -/

namespace Sys2Proof

/-- A command word is its three fields (30_encoding.md R100). -/
theorem word_eq_of_fields {w v : Word} (hop : opField w = opField v) (hrsv : rsvField w = rsvField v)
    (hb : bField w = bField v) : w = v := by
  have h1 := congrArg BitVec.toNat hop
  have h2 := congrArg BitVec.toNat hrsv
  have h3 := congrArg BitVec.toNat hb
  simp only [opField, rsvField, bField, BitVec.extractLsb'_toNat, Nat.shiftRight_eq_div_pow] at h1 h2 h3
  apply BitVec.eq_of_toNat_eq
  have hw := w.isLt
  have hv := v.isLt
  omega

theorem opField_or_byte (w : Word) (b : Byte) : opField (w ||| b.setWidth 32) = opField w := by
  ext i hi
  simp [opField, BitVec.getLsbD_of_ge b (24 + i) (by omega)]

theorem rsvField_or_byte (w : Word) (b : Byte) : rsvField (w ||| b.setWidth 32) = rsvField w := by
  ext i hi
  simp [rsvField]

theorem bField_or_byte (w : Word) (b : Byte) : bField (w ||| b.setWidth 32) = bField w ||| b := by
  ext i hi
  simp [bField, show i < 32 by omega, BitVec.getLsbD_eq_getElem hi]

theorem opField_and (w m : Word) : opField (w &&& m) = opField w &&& opField m := by
  ext i hi
  simp [opField]

theorem rsvField_and (w m : Word) : rsvField (w &&& m) = rsvField w &&& rsvField m := by
  ext i hi
  simp [rsvField]

theorem bField_and (w m : Word) : bField (w &&& m) = bField w &&& bField m := by
  ext i hi
  simp [bField]

/-- The mask of a row with a byte operand keeps OP and RSV and clears B (30_encoding.md R101). -/
theorem and_byteMask_eq {w v : Word} :
    w &&& 0xFFFFFF00 = v ↔ opField w = opField v ∧ rsvField w = rsvField v ∧ bField v = 0 := by
  have hop : opField (w &&& 0xFFFFFF00) = opField w := by
    rw [opField_and]; exact BitVec.and_allOnes
  have hrsv : rsvField (w &&& 0xFFFFFF00) = rsvField w := by
    rw [rsvField_and]; exact BitVec.and_allOnes
  have hb : bField (w &&& 0xFFFFFF00) = 0 := by
    rw [bField_and]; exact BitVec.and_zero
  constructor
  · rintro rfl
    exact ⟨hop.symm, hrsv.symm, hb⟩
  · rintro ⟨h1, h2, h3⟩
    exact word_eq_of_fields (hop.trans h1) (hrsv.trans h2) (hb.trans h3.symm)

/-- The mask of a row without operand keeps the whole word (30_encoding.md R101). -/
theorem and_fullMask_eq {w v : Word} : w &&& 0xFFFFFFFF = v ↔ w = v := by
  rw [show w &&& 0xFFFFFFFF = w from BitVec.and_allOnes]

/-- What a decoded word says about its fields (30_encoding.md R103). -/
theorem decode_ok_fields {w : Word} {i : Instr} (h : decode w = .ok i) :
    commandOf (opField w) (bField w) = some i ∧ rsvField w = 0 ∧ (i.takesByte = true ∨ bField w = 0) := by
  unfold decode at h
  split at h
  · cases h
  · next j hj =>
    split at h
    · cases h
    · next hr =>
      split at h
      · cases h
      · next hb =>
        cases h
        refine ⟨hj, by simpa using hr, ?_⟩
        cases ht : i.takesByte <;> simp_all

/-- A word is refused in one of the two ways of R103, each with its reason. -/
theorem decode_error_fields {w : Word} {e : DecodeError} (h : decode w = .error e) :
    (e = .undefOp ∧ commandOf (opField w) (bField w) = none) ∨
      (e = .rsvdNonzero ∧ ∃ i, commandOf (opField w) (bField w) = some i ∧
        (rsvField w ≠ 0 ∨ (i.takesByte = false ∧ bField w ≠ 0))) := by
  unfold decode at h
  split at h
  · next hn => cases h; exact .inl ⟨rfl, hn⟩
  · next j hj =>
    split at h
    · next hr => cases h; exact .inr ⟨rfl, j, hj, .inl hr⟩
    · split at h
      · next hb => cases h; exact .inr ⟨rfl, j, hj, .inr hb⟩
      · cases h

/-- The opcode map, read from a command back to its opcode (30_encoding.md R101). -/
def Instr.opcode : Instr → Byte
  | .nop => 0x00
  | .clrerr => 0x01
  | .srst => 0x02
  | .crcInit => 0x10
  | .crcB _ => 0x11
  | .crcLd => 0x12
  | .fltStart => 0x20
  | .fltB _ => 0x21
  | .frmStart => 0x30
  | .frmB _ => 0x31
  | .frmEos => 0x32

/-- The byte operand of a command, 0 where it has none (30_encoding.md R100, R102). -/
def Instr.byteOperand : Instr → Byte
  | .crcB b | .fltB b | .frmB b => b
  | .nop | .clrerr | .srst | .crcInit | .crcLd | .fltStart | .frmStart | .frmEos => 0

theorem commandOf_opcode {op b : Byte} {i : Instr} (h : commandOf op b = some i) :
    op = i.opcode ∧ (i.takesByte = true → i.byteOperand = b) := by
  unfold commandOf at h
  repeat' (split at h; · next ho => cases h; exact ⟨ho, by simp [Instr.takesByte, Instr.byteOperand]⟩)
  cases h

theorem commandOf_self (i : Instr) : commandOf i.opcode i.byteOperand = some i := by
  cases i <;> rfl

/-- The fields of a command's word (30_encoding.md R100, R101). -/
theorem encode_fields (i : Instr) :
    opField (encode i) = i.opcode ∧ rsvField (encode i) = 0 ∧ bField (encode i) = i.byteOperand := by
  cases i <;>
    first
      | exact ⟨rfl, rfl, rfl⟩
      | (refine ⟨(opField_or_byte _ _).trans rfl, (rsvField_or_byte _ _).trans rfl, (bField_or_byte _ _).trans ?_⟩
         exact (BitVec.zero_or))

end Sys2Proof
end

