-- ==== Sys2Proof/Laws/State.lean ====
section
/-! SUPPORT. One lemma per field per update of State, true by unfolding one update, so that no later proof unfolds a record update. -/

namespace Sys2Proof.Machine

/-! ### State.setData -/

@[simp] theorem State.setData_params (s : State) (v : Word) : (s.setData v).params = s.params := rfl
@[simp] theorem State.setData_data (s : State) (v : Word) : (s.setData v).data = v := rfl
@[simp] theorem State.setData_cmdCode (s : State) (v : Word) : (s.setData v).cmdCode = s.cmdCode := rfl
@[simp] theorem State.setData_crcState (s : State) (v : Word) : (s.setData v).crcState = s.crcState := rfl
@[simp] theorem State.setData_flt (s : State) (v : Word) : (s.setData v).flt = s.flt := rfl
@[simp] theorem State.setData_frm (s : State) (v : Word) : (s.setData v).frm = s.frm := rfl
@[simp] theorem State.setData_fltOut (s : State) (v : Word) : (s.setData v).fltOut = s.fltOut := rfl
@[simp] theorem State.setData_frmOut (s : State) (v : Word) : (s.setData v).frmOut = s.frmOut := rfl
@[simp] theorem State.setData_draw (s : State) (v : Word) : (s.setData v).draw = s.draw := rfl
@[simp] theorem State.setData_pending (s : State) (v : Word) : (s.setData v).pending = s.pending := rfl
@[simp] theorem State.setData_replies (s : State) (v : Word) : (s.setData v).replies = s.replies := rfl

/-! ### State.setCmdCode -/

@[simp] theorem State.setCmdCode_params (s : State) (c : CmdCode) : (s.setCmdCode c).params = s.params := rfl
@[simp] theorem State.setCmdCode_data (s : State) (c : CmdCode) : (s.setCmdCode c).data = s.data := rfl
@[simp] theorem State.setCmdCode_cmdCode (s : State) (c : CmdCode) : (s.setCmdCode c).cmdCode = c := rfl
@[simp] theorem State.setCmdCode_crcState (s : State) (c : CmdCode) : (s.setCmdCode c).crcState = s.crcState := rfl
@[simp] theorem State.setCmdCode_flt (s : State) (c : CmdCode) : (s.setCmdCode c).flt = s.flt := rfl
@[simp] theorem State.setCmdCode_frm (s : State) (c : CmdCode) : (s.setCmdCode c).frm = s.frm := rfl
@[simp] theorem State.setCmdCode_fltOut (s : State) (c : CmdCode) : (s.setCmdCode c).fltOut = s.fltOut := rfl
@[simp] theorem State.setCmdCode_frmOut (s : State) (c : CmdCode) : (s.setCmdCode c).frmOut = s.frmOut := rfl
@[simp] theorem State.setCmdCode_draw (s : State) (c : CmdCode) : (s.setCmdCode c).draw = s.draw := rfl
@[simp] theorem State.setCmdCode_pending (s : State) (c : CmdCode) : (s.setCmdCode c).pending = s.pending := rfl
@[simp] theorem State.setCmdCode_replies (s : State) (c : CmdCode) : (s.setCmdCode c).replies = s.replies := rfl

/-! ### State.setCrc -/

@[simp] theorem State.setCrc_params (s : State) (v : Word) : (s.setCrc v).params = s.params := rfl
@[simp] theorem State.setCrc_data (s : State) (v : Word) : (s.setCrc v).data = s.data := rfl
@[simp] theorem State.setCrc_cmdCode (s : State) (v : Word) : (s.setCrc v).cmdCode = s.cmdCode := rfl
@[simp] theorem State.setCrc_crcState (s : State) (v : Word) : (s.setCrc v).crcState = v := rfl
@[simp] theorem State.setCrc_flt (s : State) (v : Word) : (s.setCrc v).flt = s.flt := rfl
@[simp] theorem State.setCrc_frm (s : State) (v : Word) : (s.setCrc v).frm = s.frm := rfl
@[simp] theorem State.setCrc_fltOut (s : State) (v : Word) : (s.setCrc v).fltOut = s.fltOut := rfl
@[simp] theorem State.setCrc_frmOut (s : State) (v : Word) : (s.setCrc v).frmOut = s.frmOut := rfl
@[simp] theorem State.setCrc_draw (s : State) (v : Word) : (s.setCrc v).draw = s.draw := rfl
@[simp] theorem State.setCrc_pending (s : State) (v : Word) : (s.setCrc v).pending = s.pending := rfl
@[simp] theorem State.setCrc_replies (s : State) (v : Word) : (s.setCrc v).replies = s.replies := rfl

/-! ### State.setFlt -/

@[simp] theorem State.setFlt_params (s : State) (f : FltUnit) : (s.setFlt f).params = s.params := rfl
@[simp] theorem State.setFlt_data (s : State) (f : FltUnit) : (s.setFlt f).data = s.data := rfl
@[simp] theorem State.setFlt_cmdCode (s : State) (f : FltUnit) : (s.setFlt f).cmdCode = s.cmdCode := rfl
@[simp] theorem State.setFlt_crcState (s : State) (f : FltUnit) : (s.setFlt f).crcState = s.crcState := rfl
@[simp] theorem State.setFlt_flt (s : State) (f : FltUnit) : (s.setFlt f).flt = f := rfl
@[simp] theorem State.setFlt_frm (s : State) (f : FltUnit) : (s.setFlt f).frm = s.frm := rfl
@[simp] theorem State.setFlt_fltOut (s : State) (f : FltUnit) : (s.setFlt f).fltOut = s.fltOut := rfl
@[simp] theorem State.setFlt_frmOut (s : State) (f : FltUnit) : (s.setFlt f).frmOut = s.frmOut := rfl
@[simp] theorem State.setFlt_draw (s : State) (f : FltUnit) : (s.setFlt f).draw = s.draw := rfl
@[simp] theorem State.setFlt_pending (s : State) (f : FltUnit) : (s.setFlt f).pending = s.pending := rfl
@[simp] theorem State.setFlt_replies (s : State) (f : FltUnit) : (s.setFlt f).replies = s.replies := rfl

/-! ### State.setFrm -/

@[simp] theorem State.setFrm_params (s : State) (f : FrmUnit) : (s.setFrm f).params = s.params := rfl
@[simp] theorem State.setFrm_data (s : State) (f : FrmUnit) : (s.setFrm f).data = s.data := rfl
@[simp] theorem State.setFrm_cmdCode (s : State) (f : FrmUnit) : (s.setFrm f).cmdCode = s.cmdCode := rfl
@[simp] theorem State.setFrm_crcState (s : State) (f : FrmUnit) : (s.setFrm f).crcState = s.crcState := rfl
@[simp] theorem State.setFrm_flt (s : State) (f : FrmUnit) : (s.setFrm f).flt = s.flt := rfl
@[simp] theorem State.setFrm_frm (s : State) (f : FrmUnit) : (s.setFrm f).frm = f := rfl
@[simp] theorem State.setFrm_fltOut (s : State) (f : FrmUnit) : (s.setFrm f).fltOut = s.fltOut := rfl
@[simp] theorem State.setFrm_frmOut (s : State) (f : FrmUnit) : (s.setFrm f).frmOut = s.frmOut := rfl
@[simp] theorem State.setFrm_draw (s : State) (f : FrmUnit) : (s.setFrm f).draw = s.draw := rfl
@[simp] theorem State.setFrm_pending (s : State) (f : FrmUnit) : (s.setFrm f).pending = s.pending := rfl
@[simp] theorem State.setFrm_replies (s : State) (f : FrmUnit) : (s.setFrm f).replies = s.replies := rfl

/-! ### State.emitFlt -/

@[simp] theorem State.emitFlt_params (s : State) (rs : List FltRecord) : (s.emitFlt rs).params = s.params := rfl
@[simp] theorem State.emitFlt_data (s : State) (rs : List FltRecord) : (s.emitFlt rs).data = s.data := rfl
@[simp] theorem State.emitFlt_cmdCode (s : State) (rs : List FltRecord) : (s.emitFlt rs).cmdCode = s.cmdCode := rfl
@[simp] theorem State.emitFlt_crcState (s : State) (rs : List FltRecord) : (s.emitFlt rs).crcState = s.crcState := rfl
@[simp] theorem State.emitFlt_flt (s : State) (rs : List FltRecord) : (s.emitFlt rs).flt = s.flt := rfl
@[simp] theorem State.emitFlt_frm (s : State) (rs : List FltRecord) : (s.emitFlt rs).frm = s.frm := rfl
@[simp] theorem State.emitFlt_fltOut (s : State) (rs : List FltRecord) : (s.emitFlt rs).fltOut = s.fltOut ++ rs := rfl
@[simp] theorem State.emitFlt_frmOut (s : State) (rs : List FltRecord) : (s.emitFlt rs).frmOut = s.frmOut := rfl
@[simp] theorem State.emitFlt_draw (s : State) (rs : List FltRecord) : (s.emitFlt rs).draw = s.draw := rfl
@[simp] theorem State.emitFlt_pending (s : State) (rs : List FltRecord) : (s.emitFlt rs).pending = s.pending := rfl
@[simp] theorem State.emitFlt_replies (s : State) (rs : List FltRecord) : (s.emitFlt rs).replies = s.replies := rfl

/-! ### State.emitFrm -/

@[simp] theorem State.emitFrm_params (s : State) (rs : List FrmRecord) : (s.emitFrm rs).params = s.params := rfl
@[simp] theorem State.emitFrm_data (s : State) (rs : List FrmRecord) : (s.emitFrm rs).data = s.data := rfl
@[simp] theorem State.emitFrm_cmdCode (s : State) (rs : List FrmRecord) : (s.emitFrm rs).cmdCode = s.cmdCode := rfl
@[simp] theorem State.emitFrm_crcState (s : State) (rs : List FrmRecord) : (s.emitFrm rs).crcState = s.crcState := rfl
@[simp] theorem State.emitFrm_flt (s : State) (rs : List FrmRecord) : (s.emitFrm rs).flt = s.flt := rfl
@[simp] theorem State.emitFrm_frm (s : State) (rs : List FrmRecord) : (s.emitFrm rs).frm = s.frm := rfl
@[simp] theorem State.emitFrm_fltOut (s : State) (rs : List FrmRecord) : (s.emitFrm rs).fltOut = s.fltOut := rfl
@[simp] theorem State.emitFrm_frmOut (s : State) (rs : List FrmRecord) : (s.emitFrm rs).frmOut = s.frmOut ++ rs := rfl
@[simp] theorem State.emitFrm_draw (s : State) (rs : List FrmRecord) : (s.emitFrm rs).draw = s.draw := rfl
@[simp] theorem State.emitFrm_pending (s : State) (rs : List FrmRecord) : (s.emitFrm rs).pending = s.pending := rfl
@[simp] theorem State.emitFrm_replies (s : State) (rs : List FrmRecord) : (s.emitFrm rs).replies = s.replies := rfl

/-! ### State.redraw -/

@[simp] theorem State.redraw_params (s : State) : s.redraw.params = s.params := rfl
@[simp] theorem State.redraw_data (s : State) : s.redraw.data = s.data := rfl
@[simp] theorem State.redraw_cmdCode (s : State) : s.redraw.cmdCode = s.cmdCode := rfl
@[simp] theorem State.redraw_crcState (s : State) : s.redraw.crcState = s.crcState := rfl
@[simp] theorem State.redraw_flt (s : State) : s.redraw.flt = s.flt := rfl
@[simp] theorem State.redraw_frm (s : State) : s.redraw.frm = s.frm := rfl
@[simp] theorem State.redraw_fltOut (s : State) : s.redraw.fltOut = s.fltOut := rfl
@[simp] theorem State.redraw_frmOut (s : State) : s.redraw.frmOut = s.frmOut := rfl
@[simp] theorem State.redraw_draw (s : State) : s.redraw.draw = s.draw + 1 := rfl
@[simp] theorem State.redraw_pending (s : State) : s.redraw.pending = s.pending := rfl
@[simp] theorem State.redraw_replies (s : State) : s.redraw.replies = s.replies := rfl

/-! ### State.setPending -/

@[simp] theorem State.setPending_params (s : State) (es : List HostEvent) : (s.setPending es).params = s.params := rfl
@[simp] theorem State.setPending_data (s : State) (es : List HostEvent) : (s.setPending es).data = s.data := rfl
@[simp] theorem State.setPending_cmdCode (s : State) (es : List HostEvent) : (s.setPending es).cmdCode = s.cmdCode := rfl
@[simp] theorem State.setPending_crcState (s : State) (es : List HostEvent) : (s.setPending es).crcState = s.crcState := rfl
@[simp] theorem State.setPending_flt (s : State) (es : List HostEvent) : (s.setPending es).flt = s.flt := rfl
@[simp] theorem State.setPending_frm (s : State) (es : List HostEvent) : (s.setPending es).frm = s.frm := rfl
@[simp] theorem State.setPending_fltOut (s : State) (es : List HostEvent) : (s.setPending es).fltOut = s.fltOut := rfl
@[simp] theorem State.setPending_frmOut (s : State) (es : List HostEvent) : (s.setPending es).frmOut = s.frmOut := rfl
@[simp] theorem State.setPending_draw (s : State) (es : List HostEvent) : (s.setPending es).draw = s.draw := rfl
@[simp] theorem State.setPending_pending (s : State) (es : List HostEvent) : (s.setPending es).pending = es := rfl
@[simp] theorem State.setPending_replies (s : State) (es : List HostEvent) : (s.setPending es).replies = s.replies := rfl

/-! ### State.reply -/

@[simp] theorem State.reply_params (s : State) (v : Word) : (s.reply v).params = s.params := rfl
@[simp] theorem State.reply_data (s : State) (v : Word) : (s.reply v).data = s.data := rfl
@[simp] theorem State.reply_cmdCode (s : State) (v : Word) : (s.reply v).cmdCode = s.cmdCode := rfl
@[simp] theorem State.reply_crcState (s : State) (v : Word) : (s.reply v).crcState = s.crcState := rfl
@[simp] theorem State.reply_flt (s : State) (v : Word) : (s.reply v).flt = s.flt := rfl
@[simp] theorem State.reply_frm (s : State) (v : Word) : (s.reply v).frm = s.frm := rfl
@[simp] theorem State.reply_fltOut (s : State) (v : Word) : (s.reply v).fltOut = s.fltOut := rfl
@[simp] theorem State.reply_frmOut (s : State) (v : Word) : (s.reply v).frmOut = s.frmOut := rfl
@[simp] theorem State.reply_draw (s : State) (v : Word) : (s.reply v).draw = s.draw := rfl
@[simp] theorem State.reply_pending (s : State) (v : Word) : (s.reply v).pending = s.pending := rfl
@[simp] theorem State.reply_replies (s : State) (v : Word) : (s.reply v).replies = s.replies ++ [v] := rfl

/-! ### State.applyReset -/

@[simp] theorem State.applyReset_params (s : State) : s.applyReset.params = s.params := rfl
@[simp] theorem State.applyReset_data (s : State) : s.applyReset.data = 0 := rfl
@[simp] theorem State.applyReset_cmdCode (s : State) : s.applyReset.cmdCode = .noError := rfl
@[simp] theorem State.applyReset_crcState (s : State) : s.applyReset.crcState = 0xFFFFFFFF := rfl
@[simp] theorem State.applyReset_flt (s : State) : s.applyReset.flt = FltUnit.reset := rfl
@[simp] theorem State.applyReset_frm (s : State) : s.applyReset.frm = FrmUnit.reset := rfl
@[simp] theorem State.applyReset_fltOut (s : State) : s.applyReset.fltOut = s.fltOut := rfl
@[simp] theorem State.applyReset_frmOut (s : State) : s.applyReset.frmOut = s.frmOut := rfl
@[simp] theorem State.applyReset_draw (s : State) : s.applyReset.draw = s.draw + 1 := rfl
@[simp] theorem State.applyReset_pending (s : State) : s.applyReset.pending = s.pending := rfl
@[simp] theorem State.applyReset_replies (s : State) : s.applyReset.replies = s.replies := rfl

/-! ### Raising a unit error changes the state and the code alone (60_exceptions.md R305, R308) -/

@[simp] theorem FltUnit.raise_cfg (f : FltUnit) (c : FltCode) : (f.raise c).cfg = f.cfg := rfl
@[simp] theorem FltUnit.raise_width (f : FltUnit) (c : FltCode) : (f.raise c).width = f.width := rfl
@[simp] theorem FltUnit.raise_height (f : FltUnit) (c : FltCode) : (f.raise c).height = f.height := rfl
@[simp] theorem FltUnit.raise_st (f : FltUnit) (c : FltCode) : (f.raise c).st = .err := rfl
@[simp] theorem FltUnit.raise_code (f : FltUnit) (c : FltCode) : (f.raise c).code = c := rfl
@[simp] theorem FltUnit.raise_rowLen (f : FltUnit) (c : FltCode) : (f.raise c).rowLen = f.rowLen := rfl
@[simp] theorem FltUnit.raise_lHeight (f : FltUnit) (c : FltCode) : (f.raise c).lHeight = f.lHeight := rfl
@[simp] theorem FltUnit.raise_row (f : FltUnit) (c : FltCode) : (f.raise c).row = f.row := rfl
@[simp] theorem FltUnit.raise_col (f : FltUnit) (c : FltCode) : (f.raise c).col = f.col := rfl
@[simp] theorem FltUnit.raise_bpp (f : FltUnit) (c : FltCode) : (f.raise c).bpp = f.bpp := rfl
@[simp] theorem FltUnit.raise_hasPrior (f : FltUnit) (c : FltCode) : (f.raise c).hasPrior = f.hasPrior := rfl
@[simp] theorem FltUnit.raise_ftype (f : FltUnit) (c : FltCode) : (f.raise c).ftype = f.ftype := rfl
@[simp] theorem FltUnit.raise_last (f : FltUnit) (c : FltCode) : (f.raise c).last = f.last := rfl
@[simp] theorem FltUnit.raise_prev (f : FltUnit) (c : FltCode) : (f.raise c).prev = f.prev := rfl
@[simp] theorem FltUnit.raise_cur (f : FltUnit) (c : FltCode) : (f.raise c).cur = f.cur := rfl

@[simp] theorem FrmUnit.raise_ctrl (f : FrmUnit) (c : FrmCode) : (f.raise c).ctrl = f.ctrl := rfl
@[simp] theorem FrmUnit.raise_st (f : FrmUnit) (c : FrmCode) : (f.raise c).st = .err := rfl
@[simp] theorem FrmUnit.raise_code (f : FrmUnit) (c : FrmCode) : (f.raise c).code = c := rfl
@[simp] theorem FrmUnit.raise_len (f : FrmUnit) (c : FrmCode) : (f.raise c).len = f.len := rfl
@[simp] theorem FrmUnit.raise_ctype (f : FrmUnit) (c : FrmCode) : (f.raise c).ctype = f.ctype := rfl
@[simp] theorem FrmUnit.raise_crcRx (f : FrmUnit) (c : FrmCode) : (f.raise c).crcRx = f.crcRx := rfl
@[simp] theorem FrmUnit.raise_rem (f : FrmUnit) (c : FrmCode) : (f.raise c).rem = f.rem := rfl
@[simp] theorem FrmUnit.raise_pos (f : FrmUnit) (c : FrmCode) : (f.raise c).pos = f.pos := rfl
@[simp] theorem FrmUnit.raise_nchunk (f : FrmUnit) (c : FrmCode) : (f.raise c).nchunk = f.nchunk := rfl
@[simp] theorem FrmUnit.raise_fidx (f : FrmUnit) (c : FrmCode) : (f.raise c).fidx = f.fidx := rfl
@[simp] theorem FrmUnit.raise_ihdrSeen (f : FrmUnit) (c : FrmCode) : (f.raise c).ihdrSeen = f.ihdrSeen := rfl
@[simp] theorem FrmUnit.raise_physSeen (f : FrmUnit) (c : FrmCode) : (f.raise c).physSeen = f.physSeen := rfl
@[simp] theorem FrmUnit.raise_idatSeen (f : FrmUnit) (c : FrmCode) : (f.raise c).idatSeen = f.idatSeen := rfl
@[simp] theorem FrmUnit.raise_lctrl (f : FrmUnit) (c : FrmCode) : (f.raise c).lctrl = f.lctrl := rfl
@[simp] theorem FrmUnit.raise_trail (f : FrmUnit) (c : FrmCode) : (f.raise c).trail = f.trail := rfl
@[simp] theorem FrmUnit.raise_crcBad (f : FrmUnit) (c : FrmCode) : (f.raise c).crcBad = f.crcBad := rfl
@[simp] theorem FrmUnit.raise_fcrc (f : FrmUnit) (c : FrmCode) : (f.raise c).fcrc = f.fcrc := rfl

@[simp] theorem FrmUnit.consume_ctrl (f : FrmUnit) : f.consume.ctrl = f.ctrl := rfl
@[simp] theorem FrmUnit.consume_st (f : FrmUnit) : f.consume.st = f.st := rfl
@[simp] theorem FrmUnit.consume_code (f : FrmUnit) : f.consume.code = f.code := rfl
@[simp] theorem FrmUnit.consume_len (f : FrmUnit) : f.consume.len = f.len := rfl
@[simp] theorem FrmUnit.consume_ctype (f : FrmUnit) : f.consume.ctype = f.ctype := rfl
@[simp] theorem FrmUnit.consume_crcRx (f : FrmUnit) : f.consume.crcRx = f.crcRx := rfl
@[simp] theorem FrmUnit.consume_rem (f : FrmUnit) : f.consume.rem = f.rem := rfl
@[simp] theorem FrmUnit.consume_pos (f : FrmUnit) : f.consume.pos = f.pos + 1 := rfl
@[simp] theorem FrmUnit.consume_nchunk (f : FrmUnit) : f.consume.nchunk = f.nchunk := rfl
@[simp] theorem FrmUnit.consume_fidx (f : FrmUnit) : f.consume.fidx = f.fidx := rfl
@[simp] theorem FrmUnit.consume_ihdrSeen (f : FrmUnit) : f.consume.ihdrSeen = f.ihdrSeen := rfl
@[simp] theorem FrmUnit.consume_physSeen (f : FrmUnit) : f.consume.physSeen = f.physSeen := rfl
@[simp] theorem FrmUnit.consume_idatSeen (f : FrmUnit) : f.consume.idatSeen = f.idatSeen := rfl
@[simp] theorem FrmUnit.consume_lctrl (f : FrmUnit) : f.consume.lctrl = f.lctrl := rfl
@[simp] theorem FrmUnit.consume_trail (f : FrmUnit) : f.consume.trail = f.trail := rfl
@[simp] theorem FrmUnit.consume_crcBad (f : FrmUnit) : f.consume.crcBad = f.crcBad := rfl
@[simp] theorem FrmUnit.consume_fcrc (f : FrmUnit) : f.consume.fcrc = f.fcrc := rfl

@[simp] theorem FltUnit.cleared_cfg (f : FltUnit) : f.cleared.cfg = f.cfg := rfl
@[simp] theorem FltUnit.cleared_width (f : FltUnit) : f.cleared.width = f.width := rfl
@[simp] theorem FltUnit.cleared_height (f : FltUnit) : f.cleared.height = f.height := rfl
@[simp] theorem FltUnit.cleared_st (f : FltUnit) : f.cleared.st = f.st := rfl
@[simp] theorem FltUnit.cleared_code (f : FltUnit) : f.cleared.code = .noError := rfl
@[simp] theorem FltUnit.cleared_rowLen (f : FltUnit) : f.cleared.rowLen = 0 := rfl
@[simp] theorem FltUnit.cleared_lHeight (f : FltUnit) : f.cleared.lHeight = 0 := rfl
@[simp] theorem FltUnit.cleared_row (f : FltUnit) : f.cleared.row = 0 := rfl
@[simp] theorem FltUnit.cleared_col (f : FltUnit) : f.cleared.col = 0 := rfl
@[simp] theorem FltUnit.cleared_bpp (f : FltUnit) : f.cleared.bpp = 0 := rfl
@[simp] theorem FltUnit.cleared_hasPrior (f : FltUnit) : f.cleared.hasPrior = false := rfl
@[simp] theorem FltUnit.cleared_ftype (f : FltUnit) : f.cleared.ftype = .none := rfl
@[simp] theorem FltUnit.cleared_last (f : FltUnit) : f.cleared.last = 0 := rfl
@[simp] theorem FltUnit.cleared_prev (f : FltUnit) : f.cleared.prev = [] := rfl
@[simp] theorem FltUnit.cleared_cur (f : FltUnit) : f.cleared.cur = [] := rfl

@[simp] theorem State.afterFrm_params (s : State) (r : FrmUnit × List FrmRecord) : (s.afterFrm r).params = s.params := rfl
@[simp] theorem State.afterFrm_data (s : State) (r : FrmUnit × List FrmRecord) : (s.afterFrm r).data = s.data := rfl
@[simp] theorem State.afterFrm_cmdCode (s : State) (r : FrmUnit × List FrmRecord) : (s.afterFrm r).cmdCode = s.cmdCode := rfl
@[simp] theorem State.afterFrm_crcState (s : State) (r : FrmUnit × List FrmRecord) : (s.afterFrm r).crcState = s.crcState := rfl
@[simp] theorem State.afterFrm_flt (s : State) (r : FrmUnit × List FrmRecord) : (s.afterFrm r).flt = s.flt := rfl
@[simp] theorem State.afterFrm_frm (s : State) (r : FrmUnit × List FrmRecord) : (s.afterFrm r).frm = r.1 := rfl
@[simp] theorem State.afterFrm_fltOut (s : State) (r : FrmUnit × List FrmRecord) : (s.afterFrm r).fltOut = s.fltOut := rfl
@[simp] theorem State.afterFrm_frmOut (s : State) (r : FrmUnit × List FrmRecord) : (s.afterFrm r).frmOut = s.frmOut ++ r.2 := rfl
@[simp] theorem State.afterFrm_draw (s : State) (r : FrmUnit × List FrmRecord) : (s.afterFrm r).draw = s.draw := rfl
@[simp] theorem State.afterFrm_pending (s : State) (r : FrmUnit × List FrmRecord) : (s.afterFrm r).pending = s.pending := rfl
@[simp] theorem State.afterFrm_replies (s : State) (r : FrmUnit × List FrmRecord) : (s.afterFrm r).replies = s.replies := rfl

/-! ### No update with nothing is an update -/

@[simp] theorem State.emitFlt_nil (s : State) : s.emitFlt [] = s := by simp [State.emitFlt]

@[simp] theorem State.emitFrm_nil (s : State) : s.emitFrm [] = s := by simp [State.emitFrm]

@[simp] theorem State.setFlt_self (s : State) : s.setFlt s.flt = s := rfl

@[simp] theorem State.setFrm_self (s : State) : s.setFrm s.frm = s := rfl

end Sys2Proof.Machine
end

