-- ==== Sys2Proof/Laws/Memory.lean ====
section
/-! SUPPORT. The laws of the row buffers: a read after a write, the frame of a write, the row copy, and the canonical form kept by every operation. -/

namespace Sys2Proof.Machine

@[simp] theorem Memory.lookup_nil (i : Nat) : Memory.lookup [] i = none := rfl

theorem Memory.lookup_cons (j : Nat) (c : Byte) (rest : Memory) (i : Nat) :
    Memory.lookup ((j, c) :: rest) i = if j = i then some c else Memory.lookup rest i := rfl

/-- A read after a write to the same index gives the byte written. -/
@[simp] theorem Memory.lookup_write_self (m : Memory) (i : Nat) (b : Byte) : (m.write i b).lookup i = some b := by
  induction m with
  | nil => simp [Memory.write, Memory.lookup]
  | cons c rest ih =>
    obtain ⟨j, c⟩ := c
    unfold Memory.write
    split
    · simp [Memory.lookup]
    · split
      · simp [Memory.lookup]
      · next hne => simp [Memory.lookup, ih, Ne.symm hne]

/-- A write leaves every other index alone. -/
theorem Memory.lookup_write_of_ne (m : Memory) {i k : Nat} (b : Byte) (h : k ≠ i) :
    (m.write i b).lookup k = m.lookup k := by
  induction m with
  | nil => simp [Memory.write, Memory.lookup, Ne.symm h]
  | cons c rest ih =>
    obtain ⟨j, c⟩ := c
    unfold Memory.write
    split
    · simp [Memory.lookup, Ne.symm h]
    · split
      · next hij => subst hij; simp [Memory.lookup, Ne.symm h]
      · simp [Memory.lookup, ih]

theorem Memory.lookup_write (m : Memory) (i k : Nat) (b : Byte) :
    (m.write i b).lookup k = if k = i then some b else m.lookup k := by
  split
  · next h => subst h; simp
  · next h => exact Memory.lookup_write_of_ne m b h

/-- What a write lists is what it writes or was listed before. -/
theorem Memory.mem_write {m : Memory} {i : Nat} {b : Byte} {c : Host.Cell} (h : c ∈ m.write i b) :
    c = (i, b) ∨ c ∈ m := by
  induction m with
  | nil => simpa [Memory.write] using h
  | cons d rest ih =>
    obtain ⟨j, d⟩ := d
    unfold Memory.write at h
    split at h
    · simpa using h
    · split at h
      · rcases List.mem_cons.mp h with h | h
        · exact .inl h
        · exact .inr (List.mem_cons_of_mem _ h)
      · rcases List.mem_cons.mp h with h | h
        · exact .inr (by simp [h])
        · exact (ih h).imp id (List.mem_cons_of_mem _)

/-- A write keeps the canonical form. -/
theorem Memory.wf_write {m : Memory} (h : m.wf) (i : Nat) (b : Byte) : (m.write i b).wf := by
  induction m with
  | nil => simp [Memory.write, Memory.wf]
  | cons d rest ih =>
    obtain ⟨j, d⟩ := d
    have hd := List.pairwise_cons.mp h
    unfold Memory.write
    split
    · next hlt =>
      refine List.pairwise_cons.mpr ⟨fun c hc => ?_, h⟩
      rcases List.mem_cons.mp hc with hc | hc
      · simpa [hc] using hlt
      · exact lt_trans hlt (hd.1 c hc)
    · split
      · next heq => subst heq; exact List.pairwise_cons.mpr ⟨hd.1, hd.2⟩
      · next hlt hne =>
        refine List.pairwise_cons.mpr ⟨fun c hc => ?_, ih hd.2⟩
        rcases Memory.mem_write hc with hc | hc
        · simp [hc]; omega
        · exact hd.1 c hc

/-- The row copy writes `src j` at every index below `n` and leaves every other index alone (42_filter.md R198). -/
theorem Memory.lookup_copy (m : Memory) (src : Nat → Byte) (n k : Nat) :
    (m.copy src n).lookup k = if k < n then some (src k) else m.lookup k := by
  induction n with
  | zero => simp [Memory.copy]
  | succ n ih =>
    rw [Memory.copy, Memory.lookup_write, ih]
    by_cases h : k = n
    · simp [h]
    · simp only [h, if_false]
      by_cases hlt : k < n
      · simp [hlt, Nat.lt_succ_of_lt hlt]
      · have : ¬ k < n + 1 := by omega
        simp [hlt, this]

theorem Memory.mem_copy {m : Memory} {src : Nat → Byte} {n : Nat} {c : Host.Cell} (h : c ∈ m.copy src n) :
    c.1 < n ∨ c ∈ m := by
  induction n with
  | zero => exact .inr h
  | succ n ih =>
    rcases Memory.mem_write h with h | h
    · exact .inl (by simp [h])
    · exact (ih h).imp (fun h => Nat.lt_succ_of_lt h) id

/-- The row copy keeps the canonical form. -/
theorem Memory.wf_copy {m : Memory} (h : m.wf) (src : Nat → Byte) (n : Nat) : (m.copy src n).wf := by
  induction n with
  | zero => exact h
  | succ n ih => exact Memory.wf_write ih n (src n)

/-- Where a byte has been written, a read gives it, whatever the unwritten bytes are. -/
theorem Memory.read_of_lookup {m : Memory} {i : Nat} {b : Byte} (h : m.lookup i = some b) (u : Nat → Byte) :
    m.read u i = b := by
  simp [Memory.read, h]

/-- The row buffers after reset and after FLT.START are in canonical form. -/
theorem Memory.wf_empty : Memory.wf [] := List.Pairwise.nil

theorem FltUnit.reset_buffers_wf : FltUnit.reset.prev.wf ∧ FltUnit.reset.cur.wf := ⟨Memory.wf_empty, Memory.wf_empty⟩

end Sys2Proof.Machine
end

