-- ==== Sys2Proof/Laws/Ops.lean ====
section
/-! SUPPORT. One lemma per shared operation: raising a command error, the bus offset of an access, the register window, and the CRC preset. -/

namespace Sys2Proof.Machine

/-- Bit `i` of a register word that holds one field: the field's bit `i - lo`, 0 elsewhere. -/
theorem getLsbD_fieldAt {n : Nat} (lo : Nat) (v : BitVec n) (i : Nat) :
    (fieldAt lo v).getLsbD i = (decide (i < 32) && decide (lo ≤ i) && v.getLsbD (i - lo)) := by
  by_cases h : i < 32 <;> by_cases hlo : lo ≤ i
  · simp [fieldAt, h, hlo]
  · simp [fieldAt, h, hlo, show i < lo by omega]
  · simp [fieldAt, h]
  · simp [fieldAt, h]

theorem getElem_fieldAt {n : Nat} (lo : Nat) (v : BitVec n) (i : Nat) (hi : i < 32) :
    (fieldAt lo v)[i] = (decide (lo ≤ i) && v.getLsbD (i - lo)) := by
  rw [← BitVec.getLsbD_eq_getElem hi, getLsbD_fieldAt]
  simp [hi]

/-- `raise CmdError(code)` keeps the first code and changes nothing else (60_exceptions.md R306). -/
theorem State.raiseCmd_eq (s : State) (c : CmdCode) :
    s.raiseCmd c = { s with cmdCode := if s.cmdCode = .noError then c else s.cmdCode } := by
  obtain ⟨_, _, code, _⟩ := s
  cases code <;> rfl

theorem State.raiseCmd_of_error {s : State} (h : s.cmdCode ≠ .noError) (c : CmdCode) : s.raiseCmd c = s := by
  rw [State.raiseCmd_eq]
  simp [h]

/-- The offset of an access exists exactly for the accesses R78 calls transactions. -/
theorem busOffset_isSome (p : Params) (width : AccessWidth) (addr : Nat) :
    (busOffset p width addr).isSome = accessWf p width addr := by
  cases width <;> simp [busOffset, accessWf]
  split <;> simp_all

theorem busOffset_eq_some {p : Params} {width : AccessWidth} {addr off : Nat}
    (h : busOffset p width addr = some off) :
    width = .w32 ∧ addr = p.base + off ∧ off % 4 = 0 ∧ off < 0x100 := by
  cases width <;> simp [busOffset] at h
  exact ⟨rfl, by omega, by omega, by omega⟩

theorem busOffset_base (p : Params) {off : Nat} (h4 : off % 4 = 0) (hlt : off < 0x100) :
    busOffset p .w32 (p.base + off) = some off := by
  simp [busOffset, h4, hlt]

/-- A register is found at its own offset (10_state.md R33). -/
theorem regAt_offset (r : Reg) : regAt r.offset = some r := by
  cases r <;> rfl

theorem regAt_eq_some {off : Nat} {r : Reg} (h : regAt off = some r) : r.offset = off := by
  have := List.find?_some h
  simpa using this

/-- At and beyond offset 0x5C the window is reserved (10_state.md R57). -/
theorem regAt_reserved {off : Nat} (h : 0x5C ≤ off) : regAt off = none := by
  cases hr : regAt off with
  | none => rfl
  | some r =>
    have := regAt_eq_some hr
    cases r <;> simp [Reg.offset] at this <;> omega

theorem State.hostRead_offset (s : State) (r : Reg) : s.hostRead r.offset = s.readReg r := by
  simp [State.hostRead, regAt_offset]

/-- Registers the host writes touch no output stream, no parameter and no error code (20_memory.md R75). -/
theorem State.hostWriteReg_cases (s : State) (off : Nat) (v : Word) :
    s.hostWriteReg off v = s ∨ s.hostWriteReg off v = { s with data := v } ∨
      (∃ c w h, s.hostWriteReg off v = { s with flt := { s.flt with cfg := c, width := w, height := h } }) ∨
      (∃ c, s.hostWriteReg off v = { s with frm := { s.frm with ctrl := c } }) := by
  unfold State.hostWriteReg
  split
  · next r _ =>
    cases r <;>
      first
        | exact .inl rfl
        | exact .inr (.inl rfl)
        | exact .inr (.inr (.inl ⟨_, _, _, rfl⟩))
        | exact .inr (.inr (.inr ⟨_, rfl⟩))
  · exact .inl rfl

@[simp] theorem assemble_zero (field : Word) (b : Byte) : assemble field 0 b = b.setWidth 32 := rfl

theorem assemble_of_ne {fidx : BitVec 4} (h : fidx ≠ 0) (field : Word) (b : Byte) :
    assemble field fidx b = (field <<< 8) ||| b.setWidth 32 := by
  exact if_neg h

end Sys2Proof.Machine
end

