-- ==== Sys2Proof/Laws/Filter.lean ====
section
/-! SUPPORT. What FLT.START and FLT.B can do, once each. -/

namespace Sys2Proof.Machine

/-- The table of 42_filter.md R191 gives 1 to 4. -/
theorem channelCount_range {ct : Byte} {n : Nat} (h : channelCount ct = some n) : 1 ≤ n ∧ n ≤ 4 := by
  unfold channelCount at h
  repeat' (split at h; · cases h; decide)
  cases h

/-- A tag byte names a filter type exactly when it is at most 4, and FTYPE shows it (42_filter.md R196). -/
theorem filterTypeOf_bits {b : Byte} {t : FilterType} (h : filterTypeOf b = some t) :
    b.toNat ≤ 4 ∧ t.bits.toNat = b.toNat := by
  unfold filterTypeOf at h
  repeat' (split at h; · next hb => cases h; subst hb; decide)
  cases h

theorem filterTypeOf_eq_none {b : Byte} : filterTypeOf b = none ↔ 4 < b.toNat := by
  constructor
  · intro h
    by_contra hb
    have : b.toNat = 0 ∨ b.toNat = 1 ∨ b.toNat = 2 ∨ b.toNat = 3 ∨ b.toNat = 4 := by omega
    rcases this with h0 | h0 | h0 | h0 | h0 <;>
      · have hb' : b = BitVec.ofNat 8 b.toNat := by simp
        rw [h0] at hb'
        subst hb'
        revert h
        decide
  · intro h
    cases ht : filterTypeOf b with
    | none => rfl
    | some t => have := (filterTypeOf_bits ht).1; omega

/-- What FLT.START can do to the unit: fail with a code and nothing latched, or latch a legal image (42_filter.md R192). -/
theorem FltUnit.start_cases (maxRow : Nat) (f : FltUnit) :
    (∃ c, (c = .bitDepth ∨ c = .colorType ∨ c = .dimension ∨ c = .rowSize) ∧ f.start maxRow = f.cleared.raise c) ∨
      (∃ n, channelCount f.ct = some n ∧ f.width ≠ 0 ∧ f.height ≠ 0 ∧ f.width.toNat * n ≤ maxRow ∧
        f.start maxRow =
          { f.cleared with
            bpp := BitVec.ofNat 3 n
            rowLen := BitVec.ofNat 32 (f.width.toNat * n)
            lHeight := f.height
            st := .tag }) := by
  unfold FltUnit.start
  split
  · exact .inl ⟨_, .inl rfl, rfl⟩
  · split
    · exact .inl ⟨_, .inr (.inl rfl), rfl⟩
    · next n hn =>
      split
      · exact .inl ⟨_, .inr (.inr (.inl rfl)), rfl⟩
      · next hd =>
        split
        · exact .inl ⟨_, .inr (.inr (.inr rfl)), rfl⟩
        · next hr => exact .inr ⟨n, hn, fun h => hd (.inl h), fun h => hd (.inr h), by omega, rfl⟩

/-- What FLT.B can do when it answers a next state (42_filter.md R195), one case per state of the unit. -/
theorem execFltB_cases {b : Byte} {s t : State} (h : execFltB b s = .next t) :
    (s.flt.st = .idle ∧ t = s.raiseCmd .notStarted) ∨ (s.flt.st = .err ∧ t = s) ∨
      (s.flt.st = .done ∧ t = s.setFlt (s.flt.raise .overrun)) ∨
      (s.flt.st = .tag ∧ t = s.setFlt (s.flt.tagStep b)) ∨
      (s.flt.st = .data ∧ s.flt.col.toNat < s.params.maxRow.val ∧
        t = (s.setFlt (s.flt.dataStep s.draw b)).emitFlt [.raw (s.flt.rawByte s.draw b)]) := by
  unfold execFltB at h
  split at h
  · next hs => cases h; exact .inl ⟨hs, rfl⟩
  · next hs => cases h; exact .inr (.inl ⟨hs, rfl⟩)
  · next hs => cases h; exact .inr (.inr (.inl ⟨hs, rfl⟩))
  · next hs => cases h; exact .inr (.inr (.inr (.inl ⟨hs, rfl⟩)))
  · next hs =>
    split at h
    · cases h
    · cases h; exact .inr (.inr (.inr (.inr ⟨hs, by omega, rfl⟩)))

/-- The data step inside a row (42_filter.md R197). -/
theorem FltUnit.dataStep_mid {f : FltUnit} (h : f.col.toNat + 1 < f.rowLen.toNat) (draw : Nat) (b : Byte) :
    f.dataStep draw b =
      { f with
        cur := f.cur.write f.col.toNat (f.rawByte draw b)
        last := f.rawByte draw b
        col := f.col + 1 } := by
  simp [FltUnit.dataStep, h]

/-- The data step of a row's last byte (42_filter.md R198). -/
theorem FltUnit.dataStep_last {f : FltUnit} (h : ¬ f.col.toNat + 1 < f.rowLen.toNat) (draw : Nat) (b : Byte) :
    f.dataStep draw b =
      { f with
        cur := f.cur.write f.col.toNat (f.rawByte draw b)
        last := f.rawByte draw b
        prev := f.prev.copy
          ((f.cur.write f.col.toNat (f.rawByte draw b)).read (Config.unwrittenCur draw)) f.rowLen.toNat
        hasPrior := true
        row := f.row + 1
        col := 0
        st := if f.row + 1 = f.lHeight then .done else .tag } := by
  simp [FltUnit.dataStep, h, FltUnit.completeRow]
  rfl

/-- The tag step (42_filter.md R196): the error, or the row's filter type. -/
theorem FltUnit.tagStep_cases (f : FltUnit) (b : Byte) :
    (4 < b.toNat ∧ f.tagStep b = f.raise .filterType) ∨
      (∃ t, b.toNat ≤ 4 ∧ t.bits.toNat = b.toNat ∧ f.tagStep b = { f with ftype := t, col := 0, st := .data }) := by
  unfold FltUnit.tagStep
  split
  · next h => exact .inl ⟨filterTypeOf_eq_none.mp h, rfl⟩
  · next t h => exact .inr ⟨t, (filterTypeOf_bits h).1, (filterTypeOf_bits h).2, rfl⟩

/-- What the data step never changes (42_filter.md R197, R198), and that it raises no error. -/
theorem FltUnit.dataStep_frame (draw : Nat) (f : FltUnit) (b : Byte) :
    (f.dataStep draw b).cfg = f.cfg ∧ (f.dataStep draw b).width = f.width ∧ (f.dataStep draw b).height = f.height ∧
      (f.dataStep draw b).code = f.code ∧ (f.dataStep draw b).rowLen = f.rowLen ∧
      (f.dataStep draw b).lHeight = f.lHeight ∧ (f.dataStep draw b).bpp = f.bpp ∧
      (f.dataStep draw b).ftype = f.ftype ∧ (f.dataStep draw b).last = f.rawByte draw b ∧
      (f.dataStep draw b).cur = f.cur.write f.col.toNat (f.rawByte draw b) := by
  unfold FltUnit.dataStep
  dsimp only
  split <;> exact ⟨rfl, rfl, rfl, rfl, rfl, rfl, rfl, rfl, rfl, rfl⟩

/-! ### FLT.B in each state (42_filter.md R195) -/

theorem execFltB_of_idle {s : State} (h : s.flt.st = .idle) (b : Byte) :
    execFltB b s = .next (s.raiseCmd .notStarted) := by
  simp only [execFltB, h]

theorem execFltB_of_err {s : State} (h : s.flt.st = .err) (b : Byte) : execFltB b s = .next s := by
  simp only [execFltB, h]

theorem execFltB_of_done {s : State} (h : s.flt.st = .done) (b : Byte) :
    execFltB b s = .next (s.setFlt (s.flt.raise .overrun)) := by
  simp only [execFltB, h]

theorem execFltB_of_tag {s : State} (h : s.flt.st = .tag) (b : Byte) :
    execFltB b s = .next (s.setFlt (s.flt.tagStep b)) := by
  simp only [execFltB, h]

theorem execFltB_of_data {s : State} (h : s.flt.st = .data) (hc : s.flt.col.toNat < s.params.maxRow.val) (b : Byte) :
    execFltB b s = .next ((s.setFlt (s.flt.dataStep s.draw b)).emitFlt [.raw (s.flt.rawByte s.draw b)]) := by
  simp only [execFltB, h, if_neg (Nat.not_le.mpr hc)]

end Sys2Proof.Machine
end

