-- ==== Sys2Proof/Laws/Framing.lean ====
section
/-! SUPPORT. What FRM.B can do, once, and each of its steps. -/

namespace Sys2Proof.Machine

/-- What FRM.B does (43_framing.md R245), one case per state of the unit. -/
theorem execFrmB_cases {b : Byte} {s t : State} (h : execFrmB b s = .next t) :
    (s.frm.st = .idle ∧ t = s.raiseCmd .notStarted) ∨ (s.frm.st = .err ∧ t = s) ∨
      (s.frm.st = .sig ∧ t = s.afterFrm (s.frm.consume.sigStep b, [])) ∨
      (s.frm.st = .len ∧ t = s.afterFrm (s.frm.consume.lenStep b, [])) ∨
      (s.frm.st = .type ∧ t = s.afterFrm (s.frm.consume.typeStep b)) ∨
      (s.frm.st = .data ∧ t = s.afterFrm (s.frm.consume.dataStep b)) ∨
      (s.frm.st = .crc ∧ t = s.afterFrm (s.frm.consume.crcFieldStep b)) ∨
      (s.frm.st = .done ∧ t = s.afterFrm (s.frm.consume.trailStep, [])) := by
  unfold execFrmB at h
  split at h <;> next hs => cases h; simp [hs]

/-- What FRM.EOS does (43_framing.md R258). -/
theorem execFrmEos_cases {s t : State} (h : execFrmEos s = .next t) :
    (s.frm.st = .idle ∧ t = s.raiseCmd .notStarted) ∨ ((s.frm.st = .done ∨ s.frm.st = .err) ∧ t = s) ∨
      (s.frm.st ∈ ([.sig, .len, .type, .data, .crc] : List FrmSt) ∧ t = s.setFrm (s.frm.raise .missingIend)) := by
  unfold execFrmEos at h
  split at h <;> next hs => cases h; simp [hs]

/-- The signature step (43_framing.md R246, R247). -/
theorem FrmUnit.sigStep_cases (f : FrmUnit) (b : Byte) :
    (signature[f.fidx.toNat]? = some b ∧ f.fidx + 1 = 8 ∧ f.sigStep b = { f with fidx := 0, st := .len }) ∨
      (signature[f.fidx.toNat]? = some b ∧ f.fidx + 1 ≠ 8 ∧ f.sigStep b = { f with fidx := f.fidx + 1 }) ∨
      (signature[f.fidx.toNat]? ≠ some b ∧ f.sigStep b = f.raise .signature) := by
  unfold FrmUnit.sigStep
  split
  · next hb =>
    split
    · next h8 => exact .inl ⟨hb, h8, rfl⟩
    · next h8 => exact .inr (.inl ⟨hb, h8, rfl⟩)
  · next hb => exact .inr (.inr ⟨hb, rfl⟩)

/-- The field counter wraps at the fourth byte and not before it (43_framing.md R248). -/
theorem fidx_fourth {x : BitVec 4} (h : x.toNat = 3) : x + 1 = 4 := by
  rw [BitVec.eq_of_toNat_eq (y := 3#4) h]; rfl

theorem fidx_not_fourth {x : BitVec 4} (h : x.toNat < 3) : x + 1 ≠ 4 := by
  revert x; decide

theorem FrmUnit.lenStep_mid {f : FrmUnit} (h : f.fidx.toNat < 3) (b : Byte) :
    f.lenStep b = { f with len := assemble f.len f.fidx b, fidx := f.fidx + 1 } := by
  exact if_neg (fidx_not_fourth h)

theorem FrmUnit.lenStep_last {f : FrmUnit} (h : f.fidx.toNat = 3) (b : Byte) :
    f.lenStep b = { f with len := assemble f.len f.fidx b, fidx := 0, st := .type } := by
  exact if_pos (fidx_fourth h)

theorem FrmUnit.typeStep_mid {f : FrmUnit} (h : f.fidx.toNat < 3) (b : Byte) :
    f.typeStep b =
      ({ f with
          ctype := assemble f.ctype f.fidx b
          fcrc := if f.fidx = 0 then crcStep crcPreset b else crcStep f.fcrc b
          fidx := f.fidx + 1 }, []) := by
  exact if_neg (fidx_not_fourth h)

theorem FrmUnit.typeStep_last {f : FrmUnit} (h : f.fidx.toNat = 3) (b : Byte) :
    f.typeStep b =
      { f with ctype := assemble f.ctype f.fidx b, fcrc := crcStep f.fcrc b, fidx := 0 }.completeType := by
  have h0 : f.fidx ≠ 0 := by intro h0; simp [h0] at h
  simp only [FrmUnit.typeStep, if_pos (fidx_fourth h), if_neg h0]

theorem FrmUnit.dataStep_mid {f : FrmUnit} (h : f.rem ≠ 1) (b : Byte) :
    f.dataStep b = ({ f with fcrc := crcStep f.fcrc b, rem := f.rem - 1 }, [.chunkData b]) := by
  have h0 : f.rem - 1 ≠ 0 := by bv_omega
  simp only [FrmUnit.dataStep, if_neg h0]

theorem FrmUnit.dataStep_last {f : FrmUnit} (h : f.rem = 1) (b : Byte) :
    f.dataStep b =
      ({ f with fcrc := crcStep f.fcrc b, rem := 0, fidx := 0, st := .crc }, [.chunkData b]) := by
  simp [FrmUnit.dataStep, h]

theorem FrmUnit.crcFieldStep_mid {f : FrmUnit} (h : f.fidx.toNat < 3) (b : Byte) :
    f.crcFieldStep b = ({ f with crcRx := assemble f.crcRx f.fidx b, fidx := f.fidx + 1 }, []) := by
  exact if_neg (fidx_not_fourth h)

theorem FrmUnit.crcFieldStep_last {f : FrmUnit} (h : f.fidx.toNat = 3) (b : Byte) :
    f.crcFieldStep b = { f with crcRx := assemble f.crcRx f.fidx b, fidx := 0 }.completeCrc := by
  exact if_pos (fidx_fourth h)

/-- What a step that emits nothing leaves. -/
theorem State.afterFrm_nil (s : State) (f : FrmUnit) : s.afterFrm (f, []) = { s with frm := f } := by
  simp [State.afterFrm, State.setFrm, State.emitFrm]

/-- OrderViolation(t), its four conditions in words (43_framing.md R255). -/
theorem FrmUnit.orderViolation_iff (f : FrmUnit) (t : Word) :
    f.orderViolation t = true ↔
      (f.ihdrSeen = false ∧ t ≠ typeIHDR) ∨ (f.ihdrSeen = true ∧ t = typeIHDR) ∨
        (t = typePHYS ∧ (f.physSeen = true ∨ f.idatSeen = true)) ∨ (t = typeIEND ∧ f.idatSeen = false) := by
  simp only [FrmUnit.orderViolation, Bool.or_eq_true, Bool.and_eq_true, Bool.not_eq_true', decide_eq_true_eq, or_assoc]

/-- Type completion (43_framing.md R252): the error, or BEGIN and the next state. -/
theorem FrmUnit.completeType_cases (f : FrmUnit) :
    (ordChk f.lctrl = true ∧ f.orderViolation f.ctype = true ∧ f.completeType = (f.raise .order, [])) ∨
      ((ordChk f.lctrl = false ∨ f.orderViolation f.ctype = false) ∧
        f.completeType =
          ({ f.markSeen f.ctype with rem := f.len, st := if f.len = 0 then .crc else .data },
            [.chunkBegin f.len f.ctype])) := by
  unfold FrmUnit.completeType
  split
  · next h => simp only [Bool.and_eq_true] at h; exact .inl ⟨h.1, h.2, rfl⟩
  · next h => refine .inr ⟨?_, rfl⟩; simp only [Bool.and_eq_true, not_and_or, Bool.not_eq_true] at h; exact h

/-- CRC completion (43_framing.md R253): the error, or END and the next state. -/
theorem FrmUnit.completeCrc_cases (f : FrmUnit) :
    (f.crcRx ≠ f.crcCalc ∧ crcChk f.lctrl = true ∧
      f.completeCrc = ({ f with crcBad := true }.raise .crc, [])) ∨
      ((f.crcRx = f.crcCalc ∨ crcChk f.lctrl = false) ∧
        f.completeCrc =
          ({ f with
              crcBad := !decide (f.crcRx = f.crcCalc)
              nchunk := f.nchunk + 1
              st := if f.ctype = typeIEND then .done else .len },
            [.chunkEnd f.crcRx f.crcCalc (decide (f.crcRx = f.crcCalc))])) := by
  unfold FrmUnit.completeCrc
  by_cases h : f.crcRx = f.crcCalc <;> cases crcChk f.lctrl <;> simp [h]

/-! ### FRM.B and FRM.EOS in each state (43_framing.md R245, R258) -/

theorem execFrmB_of_idle {s : State} (h : s.frm.st = .idle) (b : Byte) :
    execFrmB b s = .next (s.raiseCmd .notStarted) := by
  simp only [execFrmB, h]

theorem execFrmB_of_err {s : State} (h : s.frm.st = .err) (b : Byte) : execFrmB b s = .next s := by
  simp only [execFrmB, h]

theorem execFrmB_of_sig {s : State} (h : s.frm.st = .sig) (b : Byte) :
    execFrmB b s = .next (s.afterFrm (s.frm.consume.sigStep b, [])) := by
  simp only [execFrmB, h]

theorem execFrmB_of_len {s : State} (h : s.frm.st = .len) (b : Byte) :
    execFrmB b s = .next (s.afterFrm (s.frm.consume.lenStep b, [])) := by
  simp only [execFrmB, h]

theorem execFrmB_of_type {s : State} (h : s.frm.st = .type) (b : Byte) :
    execFrmB b s = .next (s.afterFrm (s.frm.consume.typeStep b)) := by
  simp only [execFrmB, h]

theorem execFrmB_of_data {s : State} (h : s.frm.st = .data) (b : Byte) :
    execFrmB b s = .next (s.afterFrm (s.frm.consume.dataStep b)) := by
  simp only [execFrmB, h]

theorem execFrmB_of_crc {s : State} (h : s.frm.st = .crc) (b : Byte) :
    execFrmB b s = .next (s.afterFrm (s.frm.consume.crcFieldStep b)) := by
  simp only [execFrmB, h]

theorem execFrmB_of_done {s : State} (h : s.frm.st = .done) (b : Byte) :
    execFrmB b s = .next (s.afterFrm (s.frm.consume.trailStep, [])) := by
  simp only [execFrmB, h]

theorem execFrmEos_of_idle {s : State} (h : s.frm.st = .idle) : execFrmEos s = .next (s.raiseCmd .notStarted) := by
  simp only [execFrmEos, h]

theorem execFrmEos_of_ended {s : State} (h : s.frm.st = .done ∨ s.frm.st = .err) : execFrmEos s = .next s := by
  rcases h with h | h <;> simp only [execFrmEos, h]

theorem execFrmEos_of_running {s : State} (h : s.frm.st ∈ ([.sig, .len, .type, .data, .crc] : List FrmSt)) :
    execFrmEos s = .next (s.setFrm (s.frm.raise .missingIend)) := by
  simp only [List.mem_cons, List.not_mem_nil, or_false] at h
  rcases h with h | h | h | h | h <;> simp only [execFrmEos, h]

end Sys2Proof.Machine
end

