-- ==== Sys2Proof/Laws/PerInstr.lean ====
section
/-! SUPPORT. Per-command facts about the syntax: each command's word lies in its own row of the opcode table and in no other (30_encoding.md R101). -/

namespace Sys2Proof.Laws.TableRow

/-- The word of the command matches exactly the row of its mnemonic. -/
def Statement (i : Instr) : Prop :=
  ∀ r ∈ opcodeTable, (encode i &&& r.mask = r.matchBits ↔ r.mnemonic = i.mnemonic)

/-- A word matches a row when its fields do: the opcode and RSV always, B unless it is the operand. -/
theorem match_iff {w : Word} {r : OpcodeRow} (hr : r ∈ opcodeTable) :
    w &&& r.mask = r.matchBits ↔
      opField w = opField r.matchBits ∧ rsvField w = 0 ∧ (r.mask = 0xFFFFFFFF → bField w = 0) := by
  have hfull : ∀ v : Word, rsvField v = 0 → bField v = 0 →
      (w &&& 0xFFFFFFFF = v ↔ opField w = opField v ∧ rsvField w = 0 ∧ bField w = 0) := by
    intro v h1 h2
    rw [and_fullMask_eq]
    constructor
    · rintro rfl; exact ⟨rfl, h1, h2⟩
    · rintro ⟨h, h3, h4⟩; exact word_eq_of_fields h (h3.trans h1.symm) (h4.trans h2.symm)
  have hbyte : ∀ v : Word, rsvField v = 0 → bField v = 0 →
      (w &&& 0xFFFFFF00 = v ↔ opField w = opField v ∧ rsvField w = 0) := by
    intro v h1 h2
    rw [and_byteMask_eq, h1, h2]
    simp
  simp only [opcodeTable, List.mem_cons, List.not_mem_nil, or_false] at hr
  rcases hr with rfl | rfl | rfl | rfl | rfl | rfl | rfl | rfl | rfl | rfl | rfl
  all_goals
    first
      | simpa using hfull _ rfl rfl
      | simpa using hbyte _ rfl rfl

/-- A command's word matches a row when the row has the command's opcode. -/
theorem statement_of_opcode (i : Instr)
    (h : ∀ r ∈ opcodeTable, (i.opcode = opField r.matchBits ∧ (r.mask = 0xFFFFFFFF → i.byteOperand = 0)) ↔
      r.mnemonic = i.mnemonic) : Statement i := by
  intro r hr
  rw [match_iff hr, ← h r hr, (encode_fields i).1, (encode_fields i).2.1, (encode_fields i).2.2]
  simp

theorem nop : Statement .nop := statement_of_opcode _ (by decide)

theorem clrerr : Statement .clrerr := statement_of_opcode _ (by decide)

theorem srst : Statement .srst := statement_of_opcode _ (by decide)

theorem crcInit : Statement .crcInit := statement_of_opcode _ (by decide)

theorem crcB (b : Byte) : Statement (.crcB b) :=
  statement_of_opcode _ (by simp [opcodeTable, Instr.opcode, Instr.byteOperand, Instr.mnemonic, opField])

theorem crcLd : Statement .crcLd := statement_of_opcode _ (by decide)

theorem fltStart : Statement .fltStart := statement_of_opcode _ (by decide)

theorem fltB (b : Byte) : Statement (.fltB b) :=
  statement_of_opcode _ (by simp [opcodeTable, Instr.opcode, Instr.byteOperand, Instr.mnemonic, opField])

theorem frmStart : Statement .frmStart := statement_of_opcode _ (by decide)

theorem frmB (b : Byte) : Statement (.frmB b) :=
  statement_of_opcode _ (by simp [opcodeTable, Instr.opcode, Instr.byteOperand, Instr.mnemonic, opField])

theorem frmEos : Statement .frmEos := statement_of_opcode _ (by decide)

end Sys2Proof.Laws.TableRow
end

