-- ==== Sys2Proof/Laws/Step.lean ====
section
/-! SUPPORT. What a step can do, once: wait, reset, answer a read, write a register, record a refused word, or run a command. -/

namespace Sys2Proof.Machine

/-- What serving one event can do when it answers a next state. -/
theorem serve_next_cases {e : HostEvent} {s t : State} (h : serve e s = .next t) :
    (e = .reset ∧ t = s.applyReset) ∨
      (∃ off, t = s.reply (s.hostRead off)) ∨
      (∃ off v, t = s.hostWriteReg off v) ∨
      (∃ w err, e = .write .w32 s.params.base w ∧ decode w = .error err ∧ t = s.raiseCmd (cmdCodeOf err)) ∨
      (∃ w i, e = .write .w32 s.params.base w ∧ decode w = .ok i ∧ exec i s = .next t) := by
  cases e with
  | reset => cases h; exact .inl ⟨rfl, rfl⟩
  | read width addr =>
    simp only [serve] at h
    split at h
    · next off _ => cases h; exact .inr (.inl ⟨off, rfl⟩)
    · cases h
  | write width addr v =>
    simp only [serve] at h
    split at h
    · next off hoff =>
      unfold hostWrite at h
      split at h
      · next hcmd =>
        obtain ⟨rfl, rfl, -, -⟩ := busOffset_eq_some hoff
        have he : HostEvent.write .w32 (s.params.base + off) v = .write .w32 s.params.base v := by
          rw [hcmd]; rfl
        unfold runWord at h
        split at h
        · next err hd => cases h; exact .inr (.inr (.inr (.inl ⟨v, err, he, hd, rfl⟩)))
        · next i hd => exact .inr (.inr (.inr (.inr ⟨v, i, he, hd, h⟩)))
      · cases h; exact .inr (.inr (.inl ⟨off, v, rfl⟩))
    · cases h

/-- What a step can do when it answers a next state: wait, or serve the oldest event. -/
theorem step_next_cases {s t : State} (h : step s = .next t) :
    (s.pending = [] ∧ t = s) ∨ (∃ e rest, s.pending = e :: rest ∧ serve e (s.setPending rest) = .next t) := by
  unfold step at h
  split at h
  · next hp => cases h; exact .inl ⟨hp, rfl⟩
  · next e rest hp => exact .inr ⟨e, rest, hp, h⟩

/-- A command never answers a refusal, and answers a fault only as FLT.B at a place in CUR that does not exist. -/
theorem exec_total (i : Instr) (s : State) :
    (∃ t, exec i s = .next t) ∨
      ((∃ b, i = .fltB b) ∧ s.flt.st = .data ∧ s.params.maxRow.val ≤ s.flt.col.toNat ∧
        exec i s = .fault .rowBufferRange) := by
  cases i with
  | fltB b =>
    simp only [exec, execFltB]
    split <;>
      first
        | exact .inl ⟨_, rfl⟩
        | (next hs =>
            split
            · next hc => exact .inr ⟨⟨b, rfl⟩, hs, hc, rfl⟩
            · exact .inl ⟨_, rfl⟩)
  | frmB b => simp only [exec, execFrmB]; split <;> exact .inl ⟨_, rfl⟩
  | frmEos => simp only [exec, execFrmEos]; split <;> exact .inl ⟨_, rfl⟩
  | nop | clrerr | srst | crcInit | crcB _ | crcLd | fltStart | frmStart => exact .inl ⟨_, rfl⟩

end Sys2Proof.Machine
end

