-- ==== Sys2Proof/Tests/Slice0.lean ====
section
/-! SUPPORT. Tests: the well-formedness checks refuse ill-formed terms, words written out from 30_encoding.md R101 decode to their commands, single steps give the values of 95_test_vectors.md, and every statement's hypotheses are met by a concrete state. -/

namespace Sys2Proof.Tests

open Sys2Proof.Machine

/-! ### Well-formedness (00_scope.md R10, 20_memory.md R78) -/

def p4 : Params := { maxRow := 4, base := 0x100 }

theorem test_wf_params : p4.wf = true ∧ Config.params.wf = true := by decide

theorem test_wf_refuses_maxRow_zero : ({ maxRow := 0, base := 0 } : Params).wf = false := by decide

theorem test_wf_refuses_misaligned_base : ({ maxRow := 1, base := 0x80 } : Params).wf = false := by decide

theorem test_wf_access : accessWf p4 .w32 0x1FC = true ∧ accessWf p4 .w32 0x100 = true := by decide

theorem test_wf_refuses_narrow_access : accessWf p4 .w16 0x104 = false ∧ accessWf p4 .w8 0x104 = false := by decide

theorem test_wf_refuses_access_below_base : accessWf p4 .w32 0xFC = false := by decide

theorem test_wf_refuses_misaligned_access : accessWf p4 .w32 0x106 = false := by decide

theorem test_wf_refuses_access_beyond_window : accessWf p4 .w32 0x200 = false := by decide

theorem test_wf_event :
    (HostEvent.write .w32 0x104 7).wf p4 = true ∧ (HostEvent.read .w8 0x104).wf p4 = false ∧
      HostEvent.reset.wf p4 = true := by decide

/-! ### Decoding: OP in bits 31:24, RSV in 23:8, B in 7:0 (30_encoding.md R100, R101) -/

theorem test_decode_nop : decode 0b00000000000000000000000000000000 = .ok .nop := by decide

theorem test_decode_clrerr : decode 0b00000001000000000000000000000000 = .ok .clrerr := by decide

theorem test_decode_srst : decode 0b00000010000000000000000000000000 = .ok .srst := by decide

theorem test_decode_crcInit : decode 0b00010000000000000000000000000000 = .ok .crcInit := by decide

/-- 95_test_vectors.md W3: CRC.B 0x49. -/
theorem test_decode_crcB : decode 0b00010001000000000000000001001001 = .ok (.crcB 0x49) := by decide

theorem test_decode_crcLd : decode 0b00010010000000000000000000000000 = .ok .crcLd := by decide

theorem test_decode_fltStart : decode 0b00100000000000000000000000000000 = .ok .fltStart := by decide

theorem test_decode_fltB : decode 0b00100001000000000000000011111111 = .ok (.fltB 0xFF) := by decide

theorem test_decode_frmStart : decode 0b00110000000000000000000000000000 = .ok .frmStart := by decide

/-- 95_test_vectors.md P3: FRM.B 0x89. -/
theorem test_decode_frmB : decode 0b00110001000000000000000010001001 = .ok (.frmB 0x89) := by decide

theorem test_decode_frmEos : decode 0b00110010000000000000000000000000 = .ok .frmEos := by decide

/-- V-CMD-3, V-CMD-4 and P6: opcodes outside the map. -/
theorem test_decode_refuses_undefined_opcodes :
    decode 0x13000000 = .error .undefOp ∧ decode 0xFF000000 = .error .undefOp ∧
      decode 0x40000000 = .error .undefOp ∧ decode 0x13000001 = .error .undefOp := by decide

/-- V-CMD-5, V-CMD-6, V-CMD-10, V-CMD-11, V-CMD-12, V-CMD-17. -/
theorem test_decode_refuses_reserved_bits :
    decode 0x10000001 = .error .rsvdNonzero ∧ decode 0x11010041 = .error .rsvdNonzero ∧
      decode 0x01000001 = .error .rsvdNonzero ∧ decode 0x00000100 = .error .rsvdNonzero ∧
      decode 0x02000001 = .error .rsvdNonzero ∧ decode 0x21000100 = .error .rsvdNonzero := by decide

theorem test_decodeTableWord :
    decodeTableWord 32 0x21000007 = some (.fltB 7) ∧ decodeTableWord 32 0x13000000 = none := by decide

/-! ### Small states -/

/-- A field of the state a step leaves. -/
def got {α : Type} (o : Host.Outcome State Fault Refusal) (f : State → α) : Option α :=
  match o with
  | .next t => some (f t)
  | .fault _ => none
  | .refused _ => none

/-- After reset, MAXROW = 4. -/
def idle : State := State.resetWith p4

/-- FLT.CONFIG ct, w, h. -/
def configured (ct : Byte) (w h : Word) : State :=
  idle.setFlt { FltUnit.reset with cfg := 0x0800 ||| ct.setWidth 16, width := w, height := h }

/-- A gray 2 by 2 image after FLT.START. -/
def tagged : State := (configured 0 2 2).setFlt ((configured 0 2 2).flt.start 4)

/-- The first data byte of a Sub row is due. -/
def firstByte : State := tagged.setFlt (tagged.flt.tagStep 1)

/-- The second byte of the second row of W2 is due: PREV = 15 20, CUR = 10, type Paeth. -/
def lastByte : State :=
  tagged.setFlt
    { tagged.flt with
      st := .data, ftype := .paeth, row := 1, col := 1, hasPrior := true, prev := [(0, 15), (1, 20)]
      cur := [(0, 10), (1, 20)] }

/-- The tag of that second row is due. -/
def secondTag : State :=
  tagged.setFlt { tagged.flt with row := 1, hasPrior := true, prev := [(0, 15), (1, 20)], cur := [(0, 15), (1, 20)] }

/-- The image is complete. -/
def imageDone : State :=
  tagged.setFlt
    { tagged.flt with
      st := .done, row := 2, hasPrior := true, prev := [(0, 10), (1, 15)], cur := [(0, 10), (1, 15)] }

/-- The FLT unit in ERR. -/
def fltErr : State := tagged.setFlt (tagged.flt.raise .filterType)

/-- The FRM unit after FRM.START with FRM_CTRL = `c`, put into state `st` at byte `k` of its field. -/
def framing (c : BitVec 3) (st : FrmSt) (k : BitVec 4) : State :=
  idle.setFrm { ({ FrmUnit.reset with ctrl := c } : FrmUnit).start with st := st, fidx := k }

/-- One DATA byte is left. -/
def lastData : State := idle.setFrm { (framing 0 .data 0).frm with rem := 1 }

/-- A DATA byte that is not the last. -/
def midData : State := idle.setFrm { (framing 0 .data 0).frm with rem := 2 }

/-- The fourth type byte is due after "IEN", its CRC after those bytes (V-CRC-3). -/
def typeLast (c : BitVec 3) : State :=
  idle.setFrm { (framing c .type 3).frm with ctype := 0x0049454E, fcrc := 0x639F4775 }

/-- The fourth CRC byte of an IEND chunk is due after AE 42 60. -/
def crcLast (c : BitVec 3) : State :=
  idle.setFrm { (framing c .crc 3).frm with ctype := 0x49454E44, crcRx := 0x00AE4260, fcrc := 0x51BD9F7D }

/-- The FRM unit in ERR. -/
def frmErr : State := idle.setFrm ((framing 7 .len 0).frm.raise .missingIend)

/-- A command error is recorded. -/
def cmdErr : State := idle.setCmdCode .undefOp

/-- The host's next event is this command word. -/
def sending (s : State) (w : Nat) : State := s.withFetchWord 32 w

/-! ### One step of each command (95_test_vectors.md) -/

/-- V-CMD-2. -/
theorem test_nop : got (step (sending idle 0x00000000)) (fun t => (t.status, t.pending)) = some (0, []) := by decide

/-- V-CMD-9. -/
theorem test_clrerr : got (step (sending cmdErr 0x01000000)) State.status = some 0 := by decide

/-- V-CMD-13, from a state with another width and CRC. -/
theorem test_srst :
    got (exec .srst ((configured 2 5 1).setCrc 0)) (fun t => (t.flt.width, t.flt.cfg, t.crcState)) =
      some (0, 0x0800, 0xFFFFFFFF) := by decide

/-- V-CRC-17. -/
theorem test_crcInit :
    got (exec .crcInit (idle.setCrc 5)) (fun t => (t.crcState, t.crcValue)) = some (0xFFFFFFFF, 0) := by decide

/-- V-CRC-16. -/
theorem test_crcB :
    got (step (sending idle 0x11000041)) (fun t => (t.crcState, t.crcValue)) = some (0x2C266174, 0xD3D99E8B) := by decide

/-- V-CRC-1, V-CRC-2, V-CRC-13, V-CRC-14. -/
theorem test_crcStep :
    crcStep 0xFFFFFFFF 0x00 = 0x2DFD1072 ∧ crcStep 0x12345678 0x9A = 0x4E16B702 ∧ crcStep 0 0x01 = 0x77073096 ∧
      crcStep 0 0x80 = 0xEDB88320 ∧ crcStep 0 0xFF = 0x2D02EF8D ∧ crcStep 0 0 = 0 := by decide

/-- V-CRC-3 and W3: the state after each byte of "IEND", and its CRC-32. -/
theorem test_crc32_iend : crc32 [0x49, 0x45, 0x4E, 0x44] = 0xAE426082 := by
  have h1 : crcStep crcPreset 0x49 = 0x22FDE946 := by decide
  have h2 : crcStep 0x22FDE946 0x45 = 0x992BAC53 := by decide
  have h3 : crcStep 0x992BAC53 0x4E = 0x639F4775 := by decide
  have h4 : crcStep 0x639F4775 0x44 = 0x51BD9F7D := by decide
  rw [crc32, List.foldl_cons, h1, List.foldl_cons, h2, List.foldl_cons, h3, List.foldl_cons, h4]
  decide

/-- V-CRC-15. -/
theorem test_crcLd :
    got (exec .crcLd (idle.setData 0x12345678)) (fun t => (t.crcState, t.crcValue, t.data)) =
      some (0x12345678, 0xEDCBA987, 0x12345678) := by decide

/-- V-FLT-15's row length and V-FLT-36's error, at MAXROW = 4. -/
theorem test_fltStart :
    got (exec .fltStart (configured 6 1 1)) (fun t => (t.status, t.flt.rowLen, t.flt.info)) = some (1, 4, 4) ∧
      got (exec .fltStart (configured 6 3 1)) State.status = some 0x000A0004 := by decide

/-- V-FLT-31, V-FLT-34, V-FLT-35, W5. -/
theorem test_fltStart_errors :
    got (exec .fltStart (configured 3 1 1)) State.status = some 0x00060004 ∧
      got (exec .fltStart (configured 0 0 1)) State.status = some 0x00070004 ∧
      got (exec .fltStart (configured 0 1 0)) State.status = some 0x00070004 ∧
      got (exec .fltStart (idle.setFlt { FltUnit.reset with cfg := 0x1002, width := 2, height := 2 })) State.status =
        some 0x00050004 := by decide

/-- W2, the last byte: raw 15, STATUS 3, FLT_INFO 0x0F49. -/
theorem test_fltB_last_byte :
    got (exec (.fltB 0) lastByte) (fun t => (t.fltOut, t.status, t.flt.info, t.flt.row)) =
      some ([.raw 15], 3, 0x0F49, 2) := by decide

/-- V-CMD-14, V-FLT-16's tag 5, V-FLT-17's overrun. -/
theorem test_fltB_errors :
    got (step (sending idle 0x21000000)) State.status = some 0x300 ∧
      got (exec (.fltB 5) tagged) State.status = some 0x00080004 ∧
      got (exec (.fltB 0) imageDone) State.status = some 0x00090004 := by decide

/-- The Paeth values of 95_test_vectors.md, and V-FLT-7's 9-bit Average. -/
theorem test_predictors :
    paeth 10 20 15 = 15 ∧ paeth 0 0 255 = 0 ∧ paeth 255 255 0 = 255 ∧ paeth 100 50 200 = 50 ∧ paeth 50 100 40 = 100 ∧
      paeth 255 0 128 = 128 ∧ paeth 0 255 0 = 255 ∧ predict .average 128 255 0 = 191 := by decide

/-- V-FRM-23's restart and W8's first state. -/
theorem test_frmStart :
    got (exec .frmStart (framing 0 .err 0)) (fun t => (t.status, t.frm.info)) = some (0x20, 0) ∧
      got (step (sending idle 0x30000000)) (fun t => (t.status, t.frm.info)) = some (0x10, 0x700) := by decide

/-- V-FRM-1 (the accepted trailer) and V-FRM-4 (the refused one). -/
theorem test_frmB_crc :
    got (exec (.frmB 0x82) (crcLast 0)) (fun t => (t.status, t.frm.nchunk, t.frmOut)) =
        some (0x60, 1, [.chunkEnd 0xAE426082 0xAE426082 true]) ∧
      got (exec (.frmB 0x83) (crcLast 2)) (fun t => (t.status, t.frm.crcRx, t.frm.crcCalc, t.frmOut)) =
        some (0x02200070, 0xAE426083, 0xAE426082, []) := by decide

/-- V-FRM-1's BEGIN record, V-FRM-11's order error, V-FRM-3's signature error. -/
theorem test_frmB_type_and_signature :
    got (exec (.frmB 0x44) (typeLast 0)) (fun t => (t.status, t.frm.fcrc, t.frmOut)) =
        some (0x50, 0x51BD9F7D, [.chunkBegin 0 0x49454E44]) ∧
      got (exec (.frmB 0x44) (typeLast 7)) (fun t => (t.status, t.frmOut)) = some (0x00300070, []) ∧
      got (exec (.frmB 0x88) (framing 7 .sig 0)) (fun t => (t.status, t.frm.pos, t.frm.info)) =
        some (0x00100070, 1, 0x700) := by decide

/-- V-FRM-9, V-CMD-16. -/
theorem test_frmEos :
    got (exec .frmEos (framing 7 .len 0)) State.status = some 0x00400070 ∧
      got (step (sending idle 0x32000000)) State.status = some 0x300 := by decide

/-- V-CMD-3, V-CMD-7: the first command error is kept. -/
theorem test_command_errors :
    got (step (sending idle 0x13000000)) State.status = some 0x100 ∧
      got (step (sending cmdErr 0x10000001)) State.status = some 0x100 := by decide

/-- V-REG-2, V-REG-3, V-REG-4, V-REG-7: what the registers read back. -/
theorem test_register_window :
    got (hostWrite 0x18 0xFFFFFFFF idle) (fun t => t.hostRead 0x18) = some 0x0000FFFF ∧
      got (hostWrite 0x38 0xFFFFFFFF idle) (fun t => t.hostRead 0x38) = some 0x00000007 ∧
      got (hostWrite 0x5C 0x12345678 idle) (fun t => (t.hostRead 0x5C, t.hostRead 0xFC)) = some (0, 0) ∧
      got (hostWrite 0x0C 0 idle) (fun t => t.hostRead 0x0C) = some 0x504E4701 := by decide

/-- The step after reset runs the word the host is about to write. -/
theorem test_fetch_from_reset :
    got (step (State.reset.withFetchWord 32 0x11000041)) (fun t => (t.crcState, t.pending)) =
      some (0x2C266174, []) := by decide

/-! ### Witnesses: for each statement with hypotheses, states and operands that meet them all, clause by clause -/

theorem idle_inv : idle.Inv where
  params := by decide
  flt := by constructor <;> decide
  frm := by constructor <;> decide

theorem tagged_inv : tagged.Inv where
  params := by decide
  flt := by constructor <;> first | exact fun _ => ⟨2, by decide⟩ | decide
  frm := idle_inv.frm

theorem firstByte_inv : firstByte.Inv where
  params := by decide
  flt := by constructor <;> first | exact fun _ => ⟨2, by decide⟩ | decide
  frm := idle_inv.frm

theorem lastByte_inv : lastByte.Inv where
  params := by decide
  flt := by constructor <;> first | exact fun _ => ⟨2, by decide⟩ | decide
  frm := idle_inv.frm

theorem secondTag_inv : secondTag.Inv where
  params := by decide
  flt := by constructor <;> first | exact fun _ => ⟨2, by decide⟩ | decide
  frm := idle_inv.frm

theorem imageDone_inv : imageDone.Inv where
  params := by decide
  flt := by constructor <;> first | exact fun _ => ⟨2, by decide⟩ | decide
  frm := idle_inv.frm

theorem framing_inv : (framing 7 .sig 7).Inv ∧ (framing 7 .len 3).Inv ∧ (typeLast 7).Inv ∧ lastData.Inv ∧
    (crcLast 2).Inv := by
  refine ⟨?_, ?_, ?_, ?_, ?_⟩ <;> exact ⟨by decide, idle_inv.flt, by constructor <;> decide⟩

/-- The host's events `es` are waiting. -/
def waiting (s : State) (es : List HostEvent) : State := s.setPending es

/-- BothResetsLeaveTheResetValues, its last clause. -/
theorem witness_BothResets : Instr.crcInit ≠ .srst ∧ ∃ t, exec .crcInit idle = .next t := ⟨by decide, _, rfl⟩

/-- OnlyTheEncodingDecodesToACommand. -/
theorem witness_OnlyTheEncoding : decode 0x110000FF = .ok (.crcB 0xFF) ∧ decode 0x32000000 = .ok .frmEos := by decide

/-- EncodedByOneWord and EncodedWithByte, in each statement that uses them: both cases of a word with the opcode. -/
theorem witness_EncodedByOneWord :
    (0x10000000 : Word).extractLsb' 24 8 = 0x10 ∧ (0x10000001 : Word).extractLsb' 24 8 = 0x10 ∧
      (0x110000FF : Word).extractLsb' 8 16 = 0 ∧ (0x110100FF : Word).extractLsb' 8 16 ≠ 0 := by decide

/-- DecoderClassifiesEveryWordInOrder: the three cases, the reserved one by RSV and by B, an error, and a legal word that
is its command's encoding. -/
theorem witness_DecoderClassifies :
    (0x03 : Byte) ∉ ([0x00, 0x01, 0x02, 0x10, 0x11, 0x12, 0x20, 0x21, 0x30, 0x31, 0x32] : List Byte) ∧
      (0x11010041 : Word).extractLsb' 8 16 ≠ 0 ∧
      ((0x10000001 : Word).extractLsb' 24 8 ∉ ([0x11, 0x21, 0x31] : List Byte) ∧ (0x10000001 : Word).extractLsb' 0 8 ≠ 0) ∧
      decode 0x03000000 = .error .undefOp ∧ decode 0x11010041 = .error .rsvdNonzero ∧ decode 0x31000041 = .ok (.frmB 0x41) ∧
      encode (.frmB 0x41) = 0x31000041 := by
  decide

/-- StepRunsTheDecodedCommand: a command, a refused word, a reset and an idle block. -/
theorem witness_StepRuns :
    (sending idle 0x11000041).pending = [.write .w32 0x100 0x11000041] ∧ decode 0x11000041 = .ok (.crcB 0x41) ∧
      (sending idle 0x13000000).pending = [.write .w32 0x100 0x13000000] ∧ decode 0x13000000 = .error .undefOp ∧
      (waiting idle [.reset]).pending = [.reset] ∧ idle.pending = [] := by decide

/-- OnlyAlignedWordAccessesAreServed: each way of being refused, and both ends of the window. -/
theorem witness_OnlyAligned :
    step (waiting idle [.read .w16 0x104]) = .refused .notATransaction ∧
      step (waiting idle [.read .w32 0xFC]) = .refused .notATransaction ∧
      step (waiting idle [.write .w32 0x106 1]) = .refused .notATransaction ∧
      step (waiting idle [.read .w32 0x200]) = .refused .notATransaction ∧
      got (step (waiting idle [.read .w32 0x100])) State.replies = some [0] ∧
      got (step (waiting idle [.read .w32 0x1FC])) State.replies = some [0] :=
  ⟨rfl, rfl, rfl, rfl, by decide, by decide⟩

/-- HostReadReturnsTheValueAndChangesNothing, at the ends of the window and at ID. -/
theorem witness_HostRead :
    (waiting idle [.read .w32 (0x100 + 0xFC)]).pending = [.read .w32 (idle.params.base + 0xFC)] ∧ 0xFC % 4 = 0 ∧ 0xFC < 0x100 ∧
      got (step (waiting idle [.read .w32 (0x100 + 0x0C)])) State.replies = some [0x504E4701] := by decide

/-- RegisterWindowReadsTheStateItNames: the first reserved offset. -/
theorem witness_RegisterWindow : idle.hostRead 0x5C = 0 ∧ idle.hostRead 0x58 = idle.frm.info ∧ 0x5C ≤ 0x5C := by decide

/-- HostWriteDoesExactlyWhatItsOffsetSays: an offset of its last clause. -/
theorem witness_HostWrite :
    (0x10 : Nat) ∉ ([0x00, 0x04, 0x18, 0x1C, 0x20, 0x38] : List Nat) ∧
      got (hostWrite 0x10 0 idle) State.crcState = some 0xFFFFFFFF := by decide

/-- InvariantHoldsAtPowerOn: the least and the greatest MAXROW. -/
theorem witness_InvariantAtPowerOn :
    ({ maxRow := 1, base := 0 } : Params).wf = true ∧ ({ maxRow := 4294967295, base := 0x200 } : Params).wf = true := by decide

/-- EveryStepKeepsTheInvariant and NoStepFaultsUnderTheInvariant: the step that completes the last row. -/
theorem witness_EveryStepKeeps :
    (sending lastByte 0x21000000).Inv ∧ ∃ t, step (sending lastByte 0x21000000) = .next t :=
  ⟨⟨lastByte_inv.params, lastByte_inv.flt, lastByte_inv.frm⟩, _, rfl⟩

/-- EveryStepOnlyAppendsToTheStreams: a step that appends. -/
theorem witness_OnlyAppends : got (step (sending firstByte 0x2100000A)) State.fltOut = some [.raw 10] := by decide

/-- CommandErrorIsClearedOnlyByClrerrOrReset: the error kept, and cleared. -/
theorem witness_CommandErrorIsCleared :
    cmdErr.cmdCode ≠ .noError ∧ got (serve (.write .w32 0x100 0x01000000) cmdErr) State.cmdCode = some .noError ∧
      got (serve (.write .w32 0x100 0x13000000) cmdErr) State.cmdCode = some .undefOp ∧
      got (serve .reset cmdErr) State.cmdCode = some .noError := by decide

/-- CommandErrorsDoNotStopTheBlock. -/
theorem witness_CommandErrorsDoNotStop : ∃ t, exec (.crcB 0x41) cmdErr = .next t := ⟨_, rfl⟩

/-- EachCommandRaisesOnlyItsOwnErrors: each clause. -/
theorem witness_EachCommandRaises :
    got (exec (.fltB 0) idle) State.cmdCode = some .notStarted ∧
      got (exec .fltStart (configured 3 1 1)) (fun t => t.flt.code) = some .colorType ∧
      got (exec (.fltB 0) imageDone) (fun t => t.flt.code) = some .overrun ∧
      got (exec (.frmB 0x88) (framing 7 .sig 0)) (fun t => t.frm.code) = some .signature ∧
      got (exec .frmEos (framing 7 .len 0)) (fun t => t.frm.code) = some .missingIend := by decide

/-- AnErroringCommandEmitsNoRecord: each unit. -/
theorem witness_AnErroringCommand :
    imageDone.flt.st ≠ .err ∧ got (exec (.fltB 0) imageDone) (fun t => t.flt.st) = some .err ∧
      (crcLast 2).frm.st ≠ .err ∧ got (exec (.frmB 0x83) (crcLast 2)) (fun t => t.frm.st) = some .err := by decide

/-- OnlyStartOrResetLeavesErr: each unit. -/
theorem witness_OnlyStartOrReset :
    fltErr.flt.st = .err ∧ got (exec (.fltB 1) fltErr) (fun t => t.flt.st) = some .err ∧
      frmErr.frm.st = .err ∧ got (exec .frmEos frmErr) (fun t => t.frm.st) = some .err := by decide

/-- CommandsLeaveOtherUnitsAlone: each clause runs. -/
theorem witness_CommandsLeave :
    (∃ t, exec .crcInit idle = .next t) ∧ (∃ t, exec .crcLd idle = .next t) ∧ (∃ t, exec (.crcB 1) idle = .next t) ∧
      (∃ t, exec .fltStart idle = .next t) ∧ (tagged.flt.st ≠ .idle ∧ ∃ t, exec (.fltB 1) tagged = .next t) ∧
      (idle.flt.st = .idle ∧ ∃ t, exec (.fltB 1) idle = .next t) ∧ (∃ t, exec .frmStart idle = .next t) ∧
      ((crcLast 2).frm.st ≠ .idle ∧ (∃ t, exec (.frmB 1) (crcLast 2) = .next t) ∧ ∃ t, exec .frmEos (crcLast 2) = .next t) ∧
      (idle.frm.st = .idle ∧ (∃ t, exec (.frmB 1) idle = .next t) ∧ ∃ t, exec .frmEos idle = .next t) :=
  ⟨⟨_, rfl⟩, ⟨_, rfl⟩, ⟨_, rfl⟩, ⟨_, rfl⟩, ⟨by decide, _, rfl⟩, ⟨rfl, _, rfl⟩, ⟨_, rfl⟩, ⟨by decide, ⟨_, rfl⟩, _, rfl⟩,
    ⟨rfl, ⟨_, rfl⟩, _, rfl⟩⟩

/-- FltStartChecksInOrderAndLatches: a state for each outcome, the row length at MAXROW = 4 and beyond it. -/
theorem witness_FltStart :
    (configured 6 1 1).flt.bd = 8 ∧ (configured 6 1 1).flt.width.toNat * 4 = (configured 6 1 1).params.maxRow.val ∧
      got (exec .fltStart (configured 6 1 1)) (fun t => t.flt.st) = some .tag ∧
      got (exec .fltStart (configured 0 5 1)) (fun t => t.flt.code) = some .rowSize ∧
      got (exec .fltStart (configured 0 0 1)) (fun t => t.flt.code) = some .dimension ∧
      got (exec .fltStart (configured 1 1 1)) (fun t => t.flt.code) = some .colorType ∧
      got (exec .fltStart (idle.setFlt { FltUnit.reset with cfg := 0x1000 })) (fun t => t.flt.code) = some .bitDepth := by
  decide

/-- FltByteOutsideAnImage. -/
theorem witness_FltByteOutside : idle.flt.st = .idle ∧ fltErr.flt.st = .err ∧ imageDone.flt.st = .done := by decide

/-- FltTagByteSelectsTheFilterOrErrs: the greatest legal tag and the least illegal one. -/
theorem witness_FltTag :
    tagged.flt.st = .tag ∧ (4 : Byte).toNat ≤ 4 ∧ 4 < (5 : Byte).toNat ∧
      got (exec (.fltB 4) tagged) (fun t => t.flt.ftype) = some .paeth ∧
      got (exec (.fltB 5) tagged) (fun t => t.flt.code) = some .filterType := by decide

/-- FltDataByteIsReconstructedFromItsNeighbours: no neighbour and every neighbour; inside a row and its last byte. -/
theorem witness_FltData :
    firstByte.Inv ∧ firstByte.flt.st = .data ∧ firstByte.flt.hasPrior = false ∧ firstByte.flt.col.toNat + 1 < 2 ∧
      firstByte.flt.rowLen = 2 ∧ firstByte.flt.bpp = 1 ∧
      lastByte.Inv ∧ lastByte.flt.st = .data ∧ lastByte.flt.hasPrior = true ∧ lastByte.flt.col.toNat + 1 = 2 ∧
      lastByte.flt.rowLen = 2 :=
  ⟨firstByte_inv, rfl, rfl, by decide, rfl, rfl, lastByte_inv, rfl, rfl, rfl, rfl⟩

/-- PaethPicksTheNearestTiesToAThenB: a tie that a takes, one that b takes, and c alone nearest. -/
theorem witness_Paeth : paeth 5 5 5 = 5 ∧ paeth 255 255 0 = 255 ∧ paeth 50 100 40 = 100 ∧ paeth 10 20 15 = 15 := by decide

/-- FltBytesReadOnlyTheLatchedValues and UnwrittenRowBytesAreNeverObserved. -/
theorem witness_FltBytes :
    lastByte.Inv ∧ (∃ t, exec (.fltB 0) lastByte = .next t) ∧ firstByte.Inv ∧ ∃ t, exec (.fltB 0) firstByte = .next t :=
  ⟨lastByte_inv, ⟨_, rfl⟩, firstByte_inv, _, rfl⟩

/-- FltInvertsTheForwardFilterOnARow: a first row without a prior one, and a second row with it. -/
theorem witness_FltInverts :
    (tagged.Inv ∧ tagged.flt.st = .tag ∧ ([15, 20] : List Byte).length = tagged.flt.rowLen.toNat ∧
        tagged.flt.hasPrior = false) ∧
      secondTag.Inv ∧ secondTag.flt.st = .tag ∧ ([10, 15] : List Byte).length = secondTag.flt.rowLen.toNat ∧
      secondTag.flt.hasPrior = true ∧
      ∀ j, j < secondTag.flt.rowLen.toNat → secondTag.flt.prev.lookup j = ([15, 20] : List Byte)[j]? :=
  ⟨⟨tagged_inv, rfl, rfl, rfl⟩, secondTag_inv, rfl, rfl, rfl, by decide⟩

/-- W2's bytes are the forward filter of its rows. -/
theorem test_forwardFilter :
    forwardFilter .none 1 none [15, 20] = [15, 20] ∧ forwardFilter .paeth 1 (some [15, 20]) [10, 15] = [251, 0] := by decide

/-- FltCompleteImageEndsInDone: W2's image. -/
theorem witness_FltCompleteImage :
    tagged.Inv ∧ tagged.flt.st = .tag ∧ tagged.flt.row = 0 ∧
      ([(0, [15, 20]), (4, [251, 0])] : List (Byte × List Byte)).length = tagged.flt.lHeight.toNat ∧
      ∀ r ∈ ([(0, [15, 20]), (4, [251, 0])] : List (Byte × List Byte)), r.1.toNat ≤ 4 ∧ r.2.length = tagged.flt.rowLen.toNat :=
  ⟨tagged_inv, rfl, rfl, rfl, by decide⟩

/-- FltStateChangesOnlyAlongItsTable: FLT.START with a legal and with an illegal configuration, from IDLE. -/
theorem witness_FltTable_start :
    got (exec .fltStart (configured 6 1 1)) (fun t => t.flt.st) = some .tag ∧
      got (exec .fltStart (configured 0 5 1)) (fun t => t.flt.st) = some .err ∧
      (configured 6 1 1).flt.st = .idle ∧ (configured 0 5 1).flt.st = .idle := by decide

/-- FltStateChangesOnlyAlongItsTable: bytes that change the state. -/
theorem witness_FltTable :
    (lastByte.Inv ∧ got (exec (.fltB 0) lastByte) (fun t => t.flt.st) = some .done ∧ lastByte.flt.st = .data) ∧
      tagged.Inv ∧ got (exec (.fltB 4) tagged) (fun t => t.flt.st) = some .data ∧ tagged.flt.st = .tag :=
  ⟨⟨lastByte_inv, by decide, rfl⟩, tagged_inv, by decide, rfl⟩

/-- FrmByteOutsideAChunk and FrmEosReportsAMissingIend. -/
theorem witness_FrmOutside :
    idle.frm.st = .idle ∧ frmErr.frm.st = .err ∧ (framing 0 .done 0).frm.st = .done ∧ (framing 0 .sig 0).frm.st = .sig := by
  decide

/-- FrmSignatureByteMatchesOrErrs: the first and the last byte matching, and one that differs. -/
theorem witness_FrmSignature :
    (framing 7 .sig 7).frm.st = .sig ∧ (framing 7 .sig 7).frm.fidx.toNat = 7 ∧ (framing 7 .sig 0).frm.fidx.toNat = 0 ∧
      got (exec (.frmB 0x89) (framing 7 .sig 0)) (fun t => t.frm.fidx) = some 1 ∧
      got (exec (.frmB 0x0A) (framing 7 .sig 7)) (fun t => t.frm.st) = some .len ∧
      got (exec (.frmB 0x0B) (framing 7 .sig 7)) (fun t => t.frm.code) = some .signature := by decide

/-- FrmLengthByteIsAssembled and FourLengthBytesMakeABigEndianNumber. -/
theorem witness_FrmLength :
    (framing 7 .len 0).frm.st = .len ∧ (framing 7 .len 0).frm.fidx = 0 ∧ (framing 7 .len 2).frm.fidx.toNat < 3 ∧
      (framing 7 .len 3).frm.fidx.toNat = 3 := by decide

/-- FrmTypeStepAssemblesThenChecksTheOrder and FrmCrcStepAssemblesThenAcceptsOrErrs: the first and the third byte. -/
theorem witness_FrmTypeAndCrcBytes :
    (framing 7 .type 0).frm.st = .type ∧ (framing 7 .type 0).frm.fidx = 0 ∧ (framing 7 .type 2).frm.fidx.toNat < 3 ∧
      (framing 7 .crc 0).frm.st = .crc ∧ (framing 7 .crc 0).frm.fidx = 0 ∧ (framing 7 .crc 2).frm.fidx.toNat < 3 := by decide

/-- FrmTypeStepAssemblesThenChecksTheOrder, the fourth byte: a violation checked, and one not checked. -/
theorem witness_FrmTypeCompletion :
    (typeLast 7).frm.st = .type ∧ (typeLast 7).frm.fidx.toNat = 3 ∧ (typeLast 7).frm.lctrl.getLsbD 2 = true ∧
      (typeLast 7).frm.ihdrSeen = false ∧ ((typeLast 7).frm.ctype <<< 8 ||| (0x44 : Byte).setWidth 32) ≠ 0x49484452 ∧
      (typeLast 0).frm.lctrl.getLsbD 2 = false := by decide

/-- FrmDataByteIsReportedAndCounted and DataByteValuesNeverSteerFrm: the last byte and one before it. -/
theorem witness_FrmData :
    lastData.frm.st = .data ∧ lastData.frm.rem = 1 ∧ midData.frm.st = .data ∧ midData.frm.rem ≠ 1 ∧
      (∃ t, exec (.frmB 7) lastData = .next t) ∧ ∃ t, exec (.frmB 7) midData = .next t :=
  ⟨rfl, rfl, rfl, by decide, ⟨_, rfl⟩, _, rfl⟩

/-- FrmCrcStepAssemblesThenAcceptsOrErrs, the fourth byte: the CRC right, wrong and checked, wrong and not checked. -/
theorem witness_FrmCrcCompletion :
    (crcLast 2).frm.st = .crc ∧ (crcLast 2).frm.fidx.toNat = 3 ∧ (crcLast 2).frm.lctrl.getLsbD 1 = true ∧
      (crcLast 0).frm.lctrl.getLsbD 1 = false ∧
      ((crcLast 2).frm.crcRx <<< 8 ||| (0x82 : Byte).setWidth 32) = (crcLast 2).frm.fcrc ^^^ 0xFFFFFFFF ∧
      ((crcLast 2).frm.crcRx <<< 8 ||| (0x83 : Byte).setWidth 32) ≠ (crcLast 2).frm.fcrc ^^^ 0xFFFFFFFF := by decide

/-- FrmWalksAChunkByItsLength: the empty IEND chunk of W3 with the CRC check on, and an IHDR chunk of one byte with the
order check on. -/
theorem witness_FrmWalks :
    ((framing 2 .len 0).frm.st = .len ∧ (framing 2 .len 0).frm.fidx = 0 ∧ ([] : List Byte).length < 2 ^ 32 ∧
        (framing 2 .len 0).frm.lctrl.getLsbD 2 = false ∧ 0xAE426082 = crc32 (bigEndian 0x49454E44 ++ [])) ∧
      (framing 4 .len 0).frm.st = .len ∧ (framing 4 .len 0).frm.fidx = 0 ∧ ([1] : List Byte).length < 2 ^ 32 ∧
      (framing 4 .len 0).frm.orderViolation 0x49484452 = false ∧ (framing 4 .len 0).frm.lctrl.getLsbD 1 = false :=
  ⟨⟨rfl, rfl, by decide, rfl, test_crc32_iend.symm⟩, rfl, rfl, by decide, by decide, rfl⟩

/-- FrmReadsOnlyTheLatchedControl. -/
theorem witness_FrmReadsOnly :
    (∃ t, exec (.frmB 0x89) (framing 7 .sig 0) = .next t) ∧ ∃ t, exec .frmEos (framing 7 .sig 0) = .next t :=
  ⟨⟨_, rfl⟩, _, rfl⟩

/-- FrmStateChangesOnlyAlongItsTable: the edges into ERR by the signature, the order and the CRC, and the edges out of
TYPE, LEN and DATA. -/
theorem witness_FrmTable_edges :
    got (exec (.frmB 0x0B) (framing 7 .sig 7)) (fun t => t.frm.st) = some .err ∧
      got (exec (.frmB 0x44) (typeLast 7)) (fun t => t.frm.st) = some .err ∧
      got (exec (.frmB 0x83) (crcLast 2)) (fun t => t.frm.st) = some .err ∧
      got (exec (.frmB 0x44) (typeLast 0)) (fun t => t.frm.st) = some .crc ∧
      got (exec (.frmB 0x00) (framing 7 .len 3)) (fun t => t.frm.st) = some .type ∧
      got (exec (.frmB 0x00) lastData) (fun t => t.frm.st) = some .crc := by decide

/-- FrmStateChangesOnlyAlongItsTable: the last signature byte, and the last byte of IEND's CRC. -/
theorem witness_FrmTable :
    (framing 7 .sig 7).Inv ∧ got (exec (.frmB 0x0A) (framing 7 .sig 7)) (fun t => t.frm.st) = some .len ∧
      (crcLast 2).Inv ∧ got (exec (.frmB 0x82) (crcLast 2)) (fun t => t.frm.st) = some .done :=
  ⟨framing_inv.1, by decide, framing_inv.2.2.2.2, by decide⟩

end Sys2Proof.Tests
end

section

namespace Sys2Proof.Machine

/-! ### Every step only appends to the output streams (00_scope.md R9, R10, 10_state.md R30, R63) -/

/-- From `s` to `t` both output streams only grew at their ends, and the parameters stayed. -/
def State.OnlyAppends (s t : State) : Prop :=
  s.fltOut <+: t.fltOut ∧ s.frmOut <+: t.frmOut ∧ t.params = s.params

theorem State.OnlyAppends.refl (s : State) : s.OnlyAppends s := by
  simp [State.OnlyAppends]

theorem State.OnlyAppends.trans {s t u : State} (hst : s.OnlyAppends t) (htu : t.OnlyAppends u) : s.OnlyAppends u := by
  obtain ⟨hflt, hfrm, hparams⟩ := hst
  obtain ⟨hflt', hfrm', hparams'⟩ := htu
  exact ⟨hflt.trans hflt', hfrm.trans hfrm', hparams'.trans hparams⟩

theorem State.onlyAppends_setPending (s : State) (es : List HostEvent) : s.OnlyAppends (s.setPending es) := by
  simp [State.OnlyAppends]

theorem State.onlyAppends_raiseCmd (s : State) (c : CmdCode) : s.OnlyAppends (s.raiseCmd c) := by
  simp [State.OnlyAppends, State.raiseCmd_eq]

theorem State.onlyAppends_setFlt (s : State) (f : FltUnit) : s.OnlyAppends (s.setFlt f) := by
  simp [State.OnlyAppends]

theorem State.onlyAppends_setFrm (s : State) (f : FrmUnit) : s.OnlyAppends (s.setFrm f) := by
  simp [State.OnlyAppends]

theorem State.onlyAppends_emitFlt (s : State) (rs : List FltRecord) : s.OnlyAppends (s.emitFlt rs) := by
  simp [State.OnlyAppends]

theorem State.onlyAppends_afterFrm (s : State) (r : FrmUnit × List FrmRecord) : s.OnlyAppends (s.afterFrm r) := by
  simp [State.OnlyAppends]

theorem State.onlyAppends_applyReset (s : State) : s.OnlyAppends s.applyReset := by
  simp [State.OnlyAppends]

theorem State.onlyAppends_reply (s : State) (v : Word) : s.OnlyAppends (s.reply v) := by
  simp [State.OnlyAppends]

theorem State.onlyAppends_hostWriteReg (s : State) (off : Nat) (v : Word) : s.OnlyAppends (s.hostWriteReg off v) := by
  obtain h | h | ⟨c, w, ht, h⟩ | ⟨c, h⟩ := s.hostWriteReg_cases off v <;> simp [State.OnlyAppends, h]

theorem execFltB_onlyAppends {b : Byte} {s t : State} (h : execFltB b s = .next t) : s.OnlyAppends t := by
  obtain ⟨-, rfl⟩ | ⟨-, rfl⟩ | ⟨-, rfl⟩ | ⟨-, rfl⟩ | ⟨-, -, rfl⟩ := execFltB_cases h
  · exact s.onlyAppends_raiseCmd _
  · exact .refl _
  · exact s.onlyAppends_setFlt _
  · exact s.onlyAppends_setFlt _
  · exact (s.onlyAppends_setFlt _).trans (State.onlyAppends_emitFlt _ _)

theorem execFrmB_onlyAppends {b : Byte} {s t : State} (h : execFrmB b s = .next t) : s.OnlyAppends t := by
  obtain ⟨-, rfl⟩ | ⟨-, rfl⟩ | hrun := execFrmB_cases h
  · exact s.onlyAppends_raiseCmd _
  · exact .refl _
  · obtain ⟨-, rfl⟩ | ⟨-, rfl⟩ | ⟨-, rfl⟩ | ⟨-, rfl⟩ | ⟨-, rfl⟩ | ⟨-, rfl⟩ := hrun <;>
      exact s.onlyAppends_afterFrm _

theorem execFrmEos_onlyAppends {s t : State} (h : execFrmEos s = .next t) : s.OnlyAppends t := by
  obtain ⟨-, rfl⟩ | ⟨-, rfl⟩ | ⟨-, rfl⟩ := execFrmEos_cases h
  · exact s.onlyAppends_raiseCmd _
  · exact .refl _
  · exact s.onlyAppends_setFrm _

/-- Only FLT.B and FRM.B emit records; every other command sets registers and unit fields alone. -/
theorem exec_onlyAppends {i : Instr} {s t : State} (h : exec i s = .next t) : s.OnlyAppends t := by
  cases i with
  | fltB b => exact execFltB_onlyAppends h
  | frmB b => exact execFrmB_onlyAppends h
  | frmEos => exact execFrmEos_onlyAppends h
  | srst => cases h; exact s.onlyAppends_applyReset
  | nop => cases h; exact .refl _
  | frmStart => cases h; exact s.onlyAppends_setFrm _
  | clrerr | crcInit | crcB _ | crcLd | fltStart => cases h; simp [State.OnlyAppends]

theorem serve_onlyAppends {e : HostEvent} {s t : State} (h : serve e s = .next t) : s.OnlyAppends t := by
  obtain ⟨-, rfl⟩ | ⟨off, rfl⟩ | ⟨off, v, rfl⟩ | ⟨w, err, -, -, rfl⟩ | ⟨w, i, -, -, hexec⟩ := serve_next_cases h
  · exact s.onlyAppends_applyReset
  · exact s.onlyAppends_reply _
  · exact s.onlyAppends_hostWriteReg off v
  · exact s.onlyAppends_raiseCmd _
  · exact exec_onlyAppends hexec

/-- Settles O18: taking the event off the pending list touches no stream, and serving it only appends. -/
theorem everyStepOnlyAppendsToTheStreams : Obligations.EveryStepOnlyAppendsToTheStreams := by
  intro s t h
  obtain ⟨-, rfl⟩ | ⟨e, rest, -, hserve⟩ := step_next_cases h
  · exact State.OnlyAppends.refl _
  · exact (s.onlyAppends_setPending rest).trans (serve_onlyAppends hserve)

end Sys2Proof.Machine
end

section

namespace Sys2Proof.Machine

/-! ### The FLT unit keeps its clauses of the invariant (10_state.md R61, R64; 42_filter.md R192 to R205)

A `{ h with … }` below names exactly the clauses that the operation touches; the others stand as they were. -/

theorem FltUnit.inv_reset (maxRow : Nat) : FltUnit.reset.Inv maxRow := by
  constructor <;> simp [FltUnit.reset, FltSt.latched]

/-- The configuration registers stand in no clause of the invariant. -/
theorem FltUnit.Inv.setConfig {maxRow : Nat} {f : FltUnit} (h : f.Inv maxRow) (cfg : BitVec 16) (w ht : Word) :
    FltUnit.Inv maxRow { f with cfg := cfg, width := w, height := ht } :=
  { h with }

/-- Raising an error is harmless where FLT_COL is 0, that is outside DATA. -/
theorem FltUnit.Inv.raise {maxRow : Nat} {f : FltUnit} (h : f.Inv maxRow) (hcol : f.col = 0) {c : FltCode}
    (hc : c ≠ .noError) : (f.raise c).Inv maxRow :=
  { h with
    code_iff_err := by simp [hc]
    bpp_range := by simp [FltSt.latched]
    rowLen_pos := by simp [FltSt.latched]
    lHeight_pos := by simp [FltSt.latched]
    rowLen_mul := by simp [FltSt.latched]
    row_eq_iff_done := by simp [FltSt.latched]
    col_lt := by simp
    col_zero := fun _ => hcol }

/-- A failed FLT.START leaves a cleared unit in ERR. -/
theorem FltUnit.inv_cleared_raise (maxRow : Nat) (f : FltUnit) {c : FltCode} (hc : c ≠ .noError) :
    (f.cleared.raise c).Inv maxRow := by
  constructor <;> simp [hc, FltSt.latched]

/-- A channel count fits in BPP (42_filter.md R191, 10_state.md R47). -/
theorem channelCount_toNat {ct : Byte} {n : Nat} (h : channelCount ct = some n) : (BitVec.ofNat 3 n).toNat = n := by
  obtain ⟨-, hn⟩ := channelCount_range h
  rw [BitVec.toNat_ofNat, Nat.mod_eq_of_lt (by omega)]

/-- FLT.START establishes the invariant, whatever stood before: the row length is exact because it is at most MAXROW. -/
theorem FltUnit.inv_start {maxRow : Nat} (hmax : maxRow < 2 ^ 32) (f : FltUnit) : (f.start maxRow).Inv maxRow := by
  obtain ⟨c, hc, heq⟩ | ⟨n, hn, hw, hh, hle, heq⟩ := f.start_cases maxRow
  · rw [heq]
    exact FltUnit.inv_cleared_raise maxRow f (by rcases hc with rfl | rfl | rfl | rfl <;> decide)
  · have hbpp := channelCount_toNat hn
    obtain ⟨hn1, hn4⟩ := channelCount_range hn
    have hlen : (BitVec.ofNat 32 (f.width.toNat * n)).toNat = f.width.toNat * n :=
      by rw [BitVec.toNat_ofNat, Nat.mod_eq_of_lt (by omega)]
    have hw' : 1 ≤ f.width.toNat := by bv_omega
    have hh' : 1 ≤ f.height.toNat := by bv_omega
    have hpos : 1 ≤ f.width.toNat * n := Nat.mul_pos hw' hn1
    rw [heq]
    exact
      { code_iff_err := by simp
        bpp_range := fun _ => hbpp.symm ▸ ⟨hn1, hn4⟩
        rowLen_pos := fun _ => hlen.symm ▸ hpos
        rowLen_le := hlen.symm ▸ hle
        lHeight_pos := fun _ => hh'
        rowLen_mul := fun _ => ⟨f.width, by simp only [hlen, hbpp]⟩
        row_le := Nat.zero_le _
        row_eq_iff_done := fun _ => iff_of_false (Ne.symm hh) (by simp)
        col_lt := by simp
        col_zero := fun _ => rfl
        hasPrior_iff := by simp
        prev_wf := Memory.wf_empty
        cur_wf := Memory.wf_empty
        prev_bound := by simp
        cur_bound := by simp
        prev_written := by simp
        cur_written := by simp }

/-- Outside ERR no code is recorded. -/
theorem FltUnit.Inv.code_eq {maxRow : Nat} {f : FltUnit} (h : f.Inv maxRow) (hst : f.st ≠ .err) :
    f.code = .noError := by
  by_contra hcode
  exact hst (h.code_iff_err.mp hcode)

/-- In TAG and DATA the image has a row to come. -/
theorem FltUnit.Inv.row_lt {maxRow : Nat} {f : FltUnit} (h : f.Inv maxRow) (hst : f.st = .tag ∨ f.st = .data) :
    f.row.toNat < f.lHeight.toNat := by
  have hlatched : f.st.latched = true := by rcases hst with hst | hst <;> simp [hst, FltSt.latched]
  have hne : f.row ≠ f.lHeight := by
    rw [ne_eq, h.row_eq_iff_done hlatched]
    rcases hst with hst | hst <;> simp [hst]
  have hle := h.row_le
  bv_omega

theorem FltUnit.Inv.tagStep {maxRow : Nat} {f : FltUnit} (h : f.Inv maxRow) (hst : f.st = .tag) (b : Byte) :
    (f.tagStep b).Inv maxRow := by
  have hlatched : f.st.latched = true := by simp [hst, FltSt.latched]
  have hcol : f.col = 0 := h.col_zero (by simp [hst])
  obtain ⟨-, heq⟩ | ⟨t, -, -, heq⟩ := f.tagStep_cases b
  · rw [heq]
    exact h.raise hcol (by decide)
  · rw [heq]
    have hcode := h.code_eq (by simp [hst])
    have hrow : f.row ≠ f.lHeight := fun heq => (h.row_lt (.inl hst)).ne (congrArg BitVec.toNat heq)
    exact
      { h with
        code_iff_err := by simp [hcode]
        bpp_range := fun _ => h.bpp_range hlatched
        rowLen_pos := fun _ => h.rowLen_pos hlatched
        lHeight_pos := fun _ => h.lHeight_pos hlatched
        rowLen_mul := fun _ => h.rowLen_mul hlatched
        row_eq_iff_done := fun _ => iff_of_false hrow (by simp)
        col_lt := fun _ => h.rowLen_pos hlatched
        col_zero := by simp
        cur_written := by simp }

/-- In DATA the byte being written is inside the row, and the row inside the buffers. -/
theorem FltUnit.Inv.col_lt_maxRow {maxRow : Nat} {f : FltUnit} (h : f.Inv maxRow) (hst : f.st = .data) :
    f.col.toNat < maxRow :=
  Nat.lt_of_lt_of_le (h.col_lt hst) h.rowLen_le

/-- What CUR holds after the byte at FLT_COL is stored stays inside its MAXROW bytes. -/
theorem FltUnit.Inv.cur_write_bound {maxRow : Nat} {f : FltUnit} (h : f.Inv maxRow) (hst : f.st = .data) (r : Byte) :
    ∀ c ∈ f.cur.write f.col.toNat r, c.1 < maxRow := by
  intro c hc
  obtain rfl | hc := Memory.mem_write hc
  · exact h.col_lt_maxRow hst
  · exact h.cur_bound c hc

/-- After the byte at FLT_COL is stored, CUR[0..FLT_COL] has been written. -/
theorem FltUnit.Inv.cur_write_written {maxRow : Nat} {f : FltUnit} (h : f.Inv maxRow) (r : Byte) {j : Nat}
    (hj : j ≤ f.col.toNat) : ((f.cur.write f.col.toNat r).lookup j).isSome = true := by
  rw [Memory.lookup_write]
  split
  · rfl
  · exact h.cur_written j (by omega)

/-- The data step inside a row moves FLT_COL over the byte it has stored. -/
theorem FltUnit.Inv.dataStep_mid {maxRow : Nat} {f : FltUnit} (h : f.Inv maxRow) (hst : f.st = .data)
    (hmid : f.col.toNat + 1 < f.rowLen.toNat) (draw : Nat) (b : Byte) : (f.dataStep draw b).Inv maxRow := by
  have hcol : (f.col + 1).toNat = f.col.toNat + 1 := by bv_omega
  rw [FltUnit.dataStep_mid hmid]
  exact
    { h with
      col_lt := fun _ => hcol.symm ▸ hmid
      col_zero := fun hne => absurd hst hne
      cur_wf := Memory.wf_write h.cur_wf _ _
      cur_bound := h.cur_write_bound hst _
      cur_written := fun j hj => h.cur_write_written _ (by rw [hcol] at hj; omega) }

/-- Row completion makes CUR the prior row and counts it (42_filter.md R198). -/
theorem FltUnit.Inv.dataStep_last {maxRow : Nat} {f : FltUnit} (h : f.Inv maxRow) (hst : f.st = .data)
    (hlast : ¬ f.col.toNat + 1 < f.rowLen.toNat) (draw : Nat) (b : Byte) : (f.dataStep draw b).Inv maxRow := by
  have hlatched : f.st.latched = true := by simp [hst, FltSt.latched]
  have hcode := h.code_eq (by simp [hst])
  have hrowLt := h.row_lt (.inr hst)
  have hrow : (f.row + 1).toNat = f.row.toNat + 1 := by bv_omega
  have hlen := h.rowLen_le
  rw [FltUnit.dataStep_last hlast]
  exact
    { h with
      code_iff_err := by dsimp only; split <;> simp [hcode]
      bpp_range := fun _ => h.bpp_range hlatched
      rowLen_pos := fun _ => h.rowLen_pos hlatched
      lHeight_pos := fun _ => h.lHeight_pos hlatched
      rowLen_mul := fun _ => h.rowLen_mul hlatched
      row_le := by simp only [hrow]; omega
      row_eq_iff_done := fun _ => by simp only [ite_eq_left_iff, reduceCtorEq, imp_false, not_not]
      col_lt := by dsimp only; split <;> simp
      col_zero := fun _ => rfl
      hasPrior_iff := iff_of_true rfl (by simp only [hrow]; omega)
      prev_wf := Memory.wf_copy h.prev_wf _ _
      cur_wf := Memory.wf_write h.cur_wf _ _
      prev_bound := fun c hc => (Memory.mem_copy hc).elim (fun hlt => by omega) (h.prev_bound c)
      cur_bound := h.cur_write_bound hst _
      prev_written := fun _ j hj => by simp only [Memory.lookup_copy]; rw [if_pos hj]; rfl
      cur_written := by simp }

theorem FltUnit.Inv.dataStep {maxRow : Nat} {f : FltUnit} (h : f.Inv maxRow) (hst : f.st = .data) (draw : Nat)
    (b : Byte) : (f.dataStep draw b).Inv maxRow := by
  by_cases hmid : f.col.toNat + 1 < f.rowLen.toNat
  · exact h.dataStep_mid hst hmid draw b
  · exact h.dataStep_last hst hmid draw b

end Sys2Proof.Machine
end

section

namespace Sys2Proof.Machine

/-! ### The FRM unit keeps its clauses of the invariant (10_state.md R64; 43_framing.md R243 to R258) -/

theorem FrmUnit.inv_reset : FrmUnit.reset.Inv := by
  constructor <;> decide

/-- FRM_CTRL stands in no clause of the invariant. -/
theorem FrmUnit.Inv.setCtrl {f : FrmUnit} (h : f.Inv) (c : BitVec 3) : FrmUnit.Inv { f with ctrl := c } :=
  { h with }

theorem FrmUnit.Inv.consume {f : FrmUnit} (h : f.Inv) : f.consume.Inv :=
  { h with }

/-- No clause but the first speaks of ERR. -/
theorem FrmUnit.inv_raise (f : FrmUnit) {c : FrmCode} (hc : c ≠ .noError) : (f.raise c).Inv := by
  constructor <;> simp [hc]

theorem FrmUnit.inv_start (f : FrmUnit) : f.start.Inv := by
  unfold FrmUnit.start
  constructor <;> split <;> simp

/-- Outside ERR no code is recorded. -/
theorem FrmUnit.Inv.code_eq {f : FrmUnit} (h : f.Inv) (hst : f.st ≠ .err) : f.code = .noError := by
  by_contra hcode
  exact hst (h.code_iff_err.mp hcode)

/-- A unit that starts a field or a state other than DATA with FIDX 0 and no code satisfies every clause. -/
theorem FrmUnit.inv_of_fidx_zero {f : FrmUnit} (hcode : f.code = .noError) (hfidx : f.fidx = 0) (herr : f.st ≠ .err)
    (hrem : f.st = .data → 1 ≤ f.rem.toNat) : f.Inv where
  code_iff_err := by simp [hcode, herr]
  fidx_sig := by simp [hfidx]
  fidx_field := by simp [hfidx]
  fidx_zero := fun _ => hfidx
  rem_pos := hrem

/-- Inside the signature, FIDX may be any of 0 to 7. -/
theorem FrmUnit.inv_of_sig {f : FrmUnit} (hcode : f.code = .noError) (hst : f.st = .sig) (hfidx : f.fidx.toNat ≤ 7) :
    f.Inv := by
  constructor <;> simp [hst, hcode, hfidx]

/-- Inside a field of LEN, TYPE or CRC, FIDX may be any of 0 to 3. -/
theorem FrmUnit.inv_of_field {f : FrmUnit} (hcode : f.code = .noError) (hst : f.st = .len ∨ f.st = .type ∨ f.st = .crc)
    (hfidx : f.fidx.toNat ≤ 3) : f.Inv := by
  constructor <;> rcases hst with hst | hst | hst <;> simp [hst, hcode, hfidx]

/-- Before its fourth byte a field's counter stays in range. -/
theorem fidx_succ_le {x : BitVec 4} (h : x.toNat < 3) : (x + 1).toNat ≤ 3 := by bv_omega

theorem FrmUnit.Inv.sigStep {f : FrmUnit} (h : f.Inv) (hst : f.st = .sig) (b : Byte) : (f.sigStep b).Inv := by
  have hcode := h.code_eq (by simp [hst])
  have hfidx := h.fidx_sig hst
  obtain ⟨-, -, heq⟩ | ⟨-, hne, heq⟩ | ⟨-, heq⟩ := f.sigStep_cases b <;> rw [heq]
  · exact FrmUnit.inv_of_fidx_zero hcode rfl (by simp) (by simp)
  · have hle : (f.fidx + 1).toNat ≤ 7 := by bv_omega
    exact FrmUnit.inv_of_sig hcode hst hle
  · exact f.inv_raise (by decide)

theorem FrmUnit.Inv.lenStep {f : FrmUnit} (h : f.Inv) (hst : f.st = .len) (b : Byte) : (f.lenStep b).Inv := by
  have hcode := h.code_eq (by simp [hst])
  obtain hlt | hlast := Nat.lt_or_eq_of_le (h.fidx_field (.inl hst))
  · rw [FrmUnit.lenStep_mid hlt]
    exact FrmUnit.inv_of_field hcode (.inl hst) (fidx_succ_le hlt)
  · rw [FrmUnit.lenStep_last hlast]
    exact FrmUnit.inv_of_fidx_zero hcode rfl (by simp) (by simp)

/-- Type completion enters DATA only with a length of at least 1 (43_framing.md R252). -/
theorem FrmUnit.inv_completeType {f : FrmUnit} (hcode : f.code = .noError) (hfidx : f.fidx = 0) :
    f.completeType.1.Inv := by
  obtain ⟨-, -, heq⟩ | ⟨-, heq⟩ := f.completeType_cases <;> rw [heq]
  · exact f.inv_raise (by decide)
  · by_cases hlen : f.len = 0
    · exact FrmUnit.inv_of_fidx_zero hcode hfidx (by simp [hlen]) (by simp [hlen])
    · have hpos : 1 ≤ f.len.toNat := by bv_omega
      exact FrmUnit.inv_of_fidx_zero hcode hfidx (by simp only [if_neg hlen]; simp) (fun _ => hpos)

theorem FrmUnit.Inv.typeStep {f : FrmUnit} (h : f.Inv) (hst : f.st = .type) (b : Byte) : (f.typeStep b).1.Inv := by
  have hcode := h.code_eq (by simp [hst])
  obtain hlt | hlast := Nat.lt_or_eq_of_le (h.fidx_field (.inr (.inl hst)))
  · rw [FrmUnit.typeStep_mid hlt]
    exact FrmUnit.inv_of_field hcode (.inr (.inl hst)) (fidx_succ_le hlt)
  · rw [FrmUnit.typeStep_last hlast]
    exact FrmUnit.inv_completeType hcode rfl

theorem FrmUnit.Inv.dataStep {f : FrmUnit} (h : f.Inv) (hst : f.st = .data) (b : Byte) : (f.dataStep b).1.Inv := by
  have hcode := h.code_eq (by simp [hst])
  by_cases hrem : f.rem = 1
  · rw [FrmUnit.dataStep_last hrem]
    exact FrmUnit.inv_of_fidx_zero hcode rfl (by simp) (by simp)
  · have hpos := h.rem_pos hst
    have hleft : 1 ≤ (f.rem - 1).toNat := by bv_omega
    rw [FrmUnit.dataStep_mid hrem]
    exact FrmUnit.inv_of_fidx_zero hcode (h.fidx_zero (.inr (.inl hst))) (by simp [hst]) (fun _ => hleft)

theorem FrmUnit.inv_completeCrc {f : FrmUnit} (hcode : f.code = .noError) (hfidx : f.fidx = 0) :
    f.completeCrc.1.Inv := by
  obtain ⟨-, -, heq⟩ | ⟨-, heq⟩ := f.completeCrc_cases <;> rw [heq]
  · exact FrmUnit.inv_raise _ (by decide)
  · by_cases hend : f.ctype = typeIEND <;>
      exact FrmUnit.inv_of_fidx_zero hcode hfidx (by simp [hend]) (by simp [hend])

theorem FrmUnit.Inv.crcFieldStep {f : FrmUnit} (h : f.Inv) (hst : f.st = .crc) (b : Byte) :
    (f.crcFieldStep b).1.Inv := by
  have hcode := h.code_eq (by simp [hst])
  obtain hlt | hlast := Nat.lt_or_eq_of_le (h.fidx_field (.inr (.inr hst)))
  · rw [FrmUnit.crcFieldStep_mid hlt]
    exact FrmUnit.inv_of_field hcode (.inr (.inr hst)) (fidx_succ_le hlt)
  · rw [FrmUnit.crcFieldStep_last hlast]
    exact FrmUnit.inv_completeCrc hcode rfl

theorem FrmUnit.Inv.trailStep {f : FrmUnit} (h : f.Inv) : f.trailStep.Inv :=
  { h with }

end Sys2Proof.Machine
end

section

namespace Sys2Proof.Machine

/-! ### Every step keeps the invariant, and so never faults (10_state.md R64, log entries 4 and 7) -/

/-- The invariant speaks of the parameters and the two units alone. -/
theorem State.Inv.of_units {s t : State} (h : s.Inv) (hparams : t.params = s.params)
    (hflt : t.flt.Inv s.params.maxRow.val) (hfrm : t.frm.Inv) : t.Inv where
  params := hparams ▸ h.params
  flt := hparams ▸ hflt
  frm := hfrm

theorem State.Inv.applyReset {s : State} (h : s.Inv) : s.applyReset.Inv :=
  h.of_units rfl (FltUnit.inv_reset _) FrmUnit.inv_reset

theorem State.Inv.raiseCmd {s : State} (h : s.Inv) (c : CmdCode) : (s.raiseCmd c).Inv := by
  rw [State.raiseCmd_eq]
  exact h.of_units rfl h.flt h.frm

theorem State.Inv.setFlt {s : State} (h : s.Inv) {f : FltUnit} (hf : f.Inv s.params.maxRow.val) : (s.setFlt f).Inv :=
  h.of_units rfl hf h.frm

theorem State.Inv.setFrm {s : State} (h : s.Inv) {f : FrmUnit} (hf : f.Inv) : (s.setFrm f).Inv :=
  h.of_units rfl h.flt hf

theorem State.Inv.afterFrm {s : State} (h : s.Inv) {r : FrmUnit × List FrmRecord} (hr : r.1.Inv) : (s.afterFrm r).Inv :=
  h.of_units rfl h.flt hr

theorem State.Inv.hostWriteReg {s : State} (h : s.Inv) (off : Nat) (v : Word) : (s.hostWriteReg off v).Inv := by
  obtain heq | heq | ⟨c, w, ht, heq⟩ | ⟨c, heq⟩ := s.hostWriteReg_cases off v <;> rw [heq]
  · exact h
  · exact h.of_units rfl h.flt h.frm
  · exact h.of_units rfl (h.flt.setConfig c w ht) h.frm
  · exact h.of_units rfl h.flt (h.frm.setCtrl c)

theorem State.Inv.execFltB {b : Byte} {s t : State} (h : s.Inv) (hexec : execFltB b s = .next t) : t.Inv := by
  obtain ⟨-, rfl⟩ | ⟨-, rfl⟩ | ⟨hst, rfl⟩ | ⟨hst, rfl⟩ | ⟨hst, -, rfl⟩ := execFltB_cases hexec
  · exact h.raiseCmd _
  · exact h
  · exact h.setFlt (h.flt.raise (h.flt.col_zero (by simp [hst])) (by decide))
  · exact h.setFlt (h.flt.tagStep hst b)
  · exact h.of_units rfl (h.flt.dataStep hst s.draw b) h.frm

theorem State.Inv.execFrmB {b : Byte} {s t : State} (h : s.Inv) (hexec : execFrmB b s = .next t) : t.Inv := by
  have hfrm := h.frm.consume
  obtain ⟨-, rfl⟩ | ⟨-, rfl⟩ | ⟨hst, rfl⟩ | ⟨hst, rfl⟩ | ⟨hst, rfl⟩ | ⟨hst, rfl⟩ | ⟨hst, rfl⟩ | ⟨hst, rfl⟩ :=
    execFrmB_cases hexec
  · exact h.raiseCmd _
  · exact h
  · exact h.afterFrm (hfrm.sigStep hst b)
  · exact h.afterFrm (hfrm.lenStep hst b)
  · exact h.afterFrm (hfrm.typeStep hst b)
  · exact h.afterFrm (hfrm.dataStep hst b)
  · exact h.afterFrm (hfrm.crcFieldStep hst b)
  · exact h.afterFrm hfrm.trailStep

theorem State.Inv.execFrmEos {s t : State} (h : s.Inv) (hexec : execFrmEos s = .next t) : t.Inv := by
  obtain ⟨-, rfl⟩ | ⟨-, rfl⟩ | ⟨-, rfl⟩ := execFrmEos_cases hexec
  · exact h.raiseCmd _
  · exact h
  · exact h.setFrm (s.frm.inv_raise (by decide))

/-- Every command keeps the invariant. -/
theorem State.Inv.exec {i : Instr} {s t : State} (h : s.Inv) (hexec : exec i s = .next t) : t.Inv := by
  cases i with
  | fltB b => exact h.execFltB hexec
  | frmB b => exact h.execFrmB hexec
  | frmEos => exact h.execFrmEos hexec
  | fltStart => cases hexec; exact h.of_units rfl (FltUnit.inv_start s.params.maxRow.isLt _) h.frm
  | frmStart => cases hexec; exact h.setFrm s.frm.inv_start
  | srst => cases hexec; exact h.applyReset
  | nop => cases hexec; exact h
  | clrerr | crcInit | crcB _ | crcLd => cases hexec; exact h.of_units rfl h.flt h.frm

theorem State.Inv.setPending {s : State} (h : s.Inv) (es : List HostEvent) : (s.setPending es).Inv :=
  h.of_units rfl h.flt h.frm

theorem State.Inv.serve {e : HostEvent} {s t : State} (h : s.Inv) (hserve : serve e s = .next t) : t.Inv := by
  obtain ⟨-, rfl⟩ | ⟨off, rfl⟩ | ⟨off, v, rfl⟩ | ⟨w, err, -, -, rfl⟩ | ⟨w, i, -, -, hexec⟩ := serve_next_cases hserve
  · exact h.applyReset
  · exact h.of_units rfl h.flt h.frm
  · exact h.hostWriteReg off v
  · exact h.raiseCmd _
  · exact h.exec hexec

/-- Settles O16: the event is taken off the pending list, which no clause names, and serving it keeps every clause. -/
theorem everyStepKeepsTheInvariant : Obligations.EveryStepKeepsTheInvariant := by
  intro s t h hstep
  obtain ⟨-, rfl⟩ | ⟨e, rest, -, hserve⟩ := step_next_cases hstep
  · exact h
  · exact (h.setPending rest).serve hserve

/-- Settles O15: power-on has both units at their reset values. -/
theorem invariantHoldsAtPowerOn : Obligations.InvariantHoldsAtPowerOn := by
  intro p hp
  exact ⟨hp, FltUnit.inv_reset _, FrmUnit.inv_reset⟩

/-- Under the invariant every command completes: the place FLT.B stores to exists. -/
theorem State.Inv.exec_ne_fault {s : State} (h : s.Inv) (i : Instr) (r : Fault) : Machine.exec i s ≠ .fault r := by
  obtain ⟨t, heq⟩ | ⟨-, hst, hcol, -⟩ := exec_total i s
  · simp [heq]
  · exact absurd (h.flt.col_lt_maxRow hst) (Nat.not_lt.mpr hcol)

/-- Serving an event faults only where the command it carries does. -/
theorem serve_fault {e : HostEvent} {s : State} {r : Fault} (h : serve e s = .fault r) : ∃ i, exec i s = .fault r := by
  cases e with
  | reset => cases h
  | read width addr =>
    simp only [serve] at h
    split at h <;> cases h
  | write width addr v =>
    simp only [serve, hostWrite, runWord] at h
    split at h
    · split at h
      · split at h
        · cases h
        · next i _ => exact ⟨i, h⟩
      · cases h
    · cases h

/-- Settles O17: only a command can fault, and under the invariant none does. -/
theorem noStepFaultsUnderTheInvariant : Obligations.NoStepFaultsUnderTheInvariant := by
  intro s h r hstep
  unfold step at hstep
  split at hstep
  · cases hstep
  · next e rest _ =>
    obtain ⟨i, hexec⟩ := serve_fault hstep
    exact (h.setPending rest).exec_ne_fault i r hexec

end Sys2Proof.Machine
end

section

namespace Sys2Proof.Machine

/-! ### No command observes an unwritten byte of the row buffers (10_state.md R61, 70_reset_and_hazards.md R343) -/

/-- A written byte reads the same whatever the unwritten bytes are. -/
theorem Memory.read_eq_of_written {m : Memory} {i : Nat} (h : (m.lookup i).isSome = true) (u v : Nat → Byte) :
    m.read u i = m.read v i := by
  obtain ⟨b, hb⟩ := Option.isSome_iff_exists.mp h
  rw [Memory.read_of_lookup hb, Memory.read_of_lookup hb]

/-- The row copy looks at its source below `n` alone. -/
theorem Memory.copy_congr (m : Memory) {src src' : Nat → Byte} {n : Nat} (h : ∀ j, j < n → src j = src' j) :
    m.copy src n = m.copy src' n := by
  induction n with
  | zero => rfl
  | succ n ih => rw [Memory.copy, Memory.copy, ih fun j hj => h j (by omega), h n (by omega)]

section

variable {maxRow : Nat} {f : FltUnit} (h : f.Inv maxRow) (hst : f.st = .data) (d e : Nat)

include h

theorem FltUnit.Inv.curByte_draw {j : Nat} (hj : j < f.col.toNat) : f.curByte d j = f.curByte e j :=
  Memory.read_eq_of_written (h.cur_written j hj) _ _

theorem FltUnit.Inv.prevByte_draw (hprior : f.hasPrior = true) {j : Nat} (hj : j < f.rowLen.toNat) :
    f.prevByte d j = f.prevByte e j :=
  Memory.read_eq_of_written (h.prev_written hprior j hj) _ _

include hst

/-- BPP is at least 1, so left stands before FLT_COL in CUR. -/
theorem FltUnit.Inv.left_draw : f.left d = f.left e := by
  obtain ⟨hbpp, -⟩ := h.bpp_range (by simp [hst, FltSt.latched])
  unfold FltUnit.left
  split
  · exact h.curByte_draw d e (by omega)
  · rfl

theorem FltUnit.Inv.up_draw : f.up d = f.up e := by
  unfold FltUnit.up
  split
  · next hprior => exact h.prevByte_draw d e hprior (h.col_lt hst)
  · rfl

theorem FltUnit.Inv.upperLeft_draw : f.upperLeft d = f.upperLeft e := by
  have hcol := h.col_lt hst
  unfold FltUnit.upperLeft
  split
  · next hrow =>
    obtain ⟨hprior, -⟩ := hrow
    exact h.prevByte_draw d e hprior (by omega)
  · rfl

theorem FltUnit.Inv.rawByte_draw (b : Byte) : f.rawByte d b = f.rawByte e b := by
  simp only [FltUnit.rawByte, h.left_draw hst d e, h.up_draw hst d e, h.upperLeft_draw hst d e]

/-- Row completion copies bytes of CUR that have all been written, the last of them by this step. -/
theorem FltUnit.Inv.dataStep_draw (b : Byte) : f.dataStep d b = f.dataStep e b := by
  have hraw := h.rawByte_draw hst d e b
  have hcol := h.col_lt hst
  by_cases hmid : f.col.toNat + 1 < f.rowLen.toNat
  · rw [FltUnit.dataStep_mid hmid, FltUnit.dataStep_mid hmid, hraw]
  · have hcopy := f.prev.copy_congr (n := f.rowLen.toNat) fun j hj =>
      Memory.read_eq_of_written (h.cur_write_written (f.rawByte e b) (j := j) (by omega))
        (Config.unwrittenCur d) (Config.unwrittenCur e)
    rw [FltUnit.dataStep_last hmid, FltUnit.dataStep_last hmid, hraw, hcopy]

end

/-- With any other draw of the unwritten bytes, `run` answers the same next state from `s`, but for the draw itself. -/
def State.DrawIrrelevant (s : State) (run : State → Host.Outcome State Fault Refusal) : Prop :=
  ∀ (t : State) (d : Nat), run s = .next t → ∃ u, run { s with draw := d } = .next u ∧ { u with draw := t.draw } = t

theorem State.raiseCmd_draw (s : State) (c : CmdCode) (d : Nat) :
    State.raiseCmd { s with draw := d } c = { s.raiseCmd c with draw := d } := by
  simp only [State.raiseCmd_eq]

theorem State.Inv.execFltB_draw {s : State} (h : s.Inv) (b : Byte) : s.DrawIrrelevant (Machine.execFltB b) := by
  intro t d hexec
  let r : State := { s with draw := d }
  obtain ⟨hst, rfl⟩ | ⟨hst, rfl⟩ | ⟨hst, rfl⟩ | ⟨hst, rfl⟩ | ⟨hst, hcol, rfl⟩ := execFltB_cases hexec
  · exact ⟨_, execFltB_of_idle (s := r) hst b, by rw [s.raiseCmd_draw]⟩
  · exact ⟨_, execFltB_of_err (s := r) hst b, rfl⟩
  · exact ⟨_, execFltB_of_done (s := r) hst b, rfl⟩
  · exact ⟨_, execFltB_of_tag (s := r) hst b, rfl⟩
  · have hunit : r.flt.dataStep r.draw b = s.flt.dataStep s.draw b := h.flt.dataStep_draw hst d s.draw b
    have hraw : r.flt.rawByte r.draw b = s.flt.rawByte s.draw b := h.flt.rawByte_draw hst d s.draw b
    exact ⟨_, execFltB_of_data (s := r) hst hcol b, by rw [hunit, hraw]; rfl⟩

theorem execFrmB_draw (b : Byte) (s : State) : s.DrawIrrelevant (execFrmB b) := by
  intro t d hexec
  let r : State := { s with draw := d }
  obtain ⟨hst, rfl⟩ | ⟨hst, rfl⟩ | ⟨hst, rfl⟩ | ⟨hst, rfl⟩ | ⟨hst, rfl⟩ | ⟨hst, rfl⟩ | ⟨hst, rfl⟩ | ⟨hst, rfl⟩ :=
    execFrmB_cases hexec
  · exact ⟨_, execFrmB_of_idle (s := r) hst b, by rw [s.raiseCmd_draw]⟩
  · exact ⟨_, execFrmB_of_err (s := r) hst b, rfl⟩
  · exact ⟨_, execFrmB_of_sig (s := r) hst b, rfl⟩
  · exact ⟨_, execFrmB_of_len (s := r) hst b, rfl⟩
  · exact ⟨_, execFrmB_of_type (s := r) hst b, rfl⟩
  · exact ⟨_, execFrmB_of_data (s := r) hst b, rfl⟩
  · exact ⟨_, execFrmB_of_crc (s := r) hst b, rfl⟩
  · exact ⟨_, execFrmB_of_done (s := r) hst b, rfl⟩

theorem execFrmEos_draw (s : State) : s.DrawIrrelevant execFrmEos := by
  intro t d hexec
  obtain ⟨hst, rfl⟩ | ⟨hst, rfl⟩ | ⟨hst, rfl⟩ := execFrmEos_cases hexec
  · exact ⟨_, execFrmEos_of_idle hst, by rw [s.raiseCmd_draw]⟩
  · exact ⟨_, execFrmEos_of_ended hst, rfl⟩
  · exact ⟨_, execFrmEos_of_running hst, rfl⟩

/-- Settles O40: only FLT.B reads the row buffers, and under the invariant it reads bytes that have been written. -/
theorem unwrittenRowBytesAreNeverObserved : Obligations.UnwrittenRowBytesAreNeverObserved := by
  intro i s t d h hexec
  cases i with
  | fltB b => exact h.execFltB_draw b t d hexec
  | frmB b => exact execFrmB_draw b s t d hexec
  | frmEos => exact execFrmEos_draw s t d hexec
  | nop | clrerr | srst | crcInit | crcB _ | crcLd | fltStart | frmStart => cases hexec; exact ⟨_, rfl, rfl⟩

end Sys2Proof.Machine
end

section

namespace Sys2Proof.Machine

/-! ### The register window and the packed words (10_state.md R33 to R57) -/

/-- A field of a word reads back at its own bits. -/
theorem extractLsb'_fieldAt_self {n lo : Nat} (v : BitVec n) (h : lo + n ≤ 32) : (fieldAt lo v).extractLsb' lo n = v := by
  ext i hi
  simp [getElem_fieldAt, show lo + i < 32 by omega, BitVec.getLsbD_eq_getElem hi]

/-- A field leaves the bits above and below it 0. -/
theorem extractLsb'_fieldAt_of_disjoint {n lo : Nat} (v : BitVec n) {start len : Nat}
    (h : start + len ≤ lo ∨ lo + n ≤ start) : (fieldAt lo v).extractLsb' start len = 0#len := by
  ext i hi
  obtain h | h := h
  · simp [getLsbD_fieldAt, show ¬ lo ≤ start + i by omega]
  · simp [getLsbD_fieldAt, v.getLsbD_of_ge (start + i - lo) (by omega)]

/-- A one-bit field is the flag it shows. -/
theorem getElem_fieldAt_ofBool_self {lo : Nat} (v : Bool) (h : lo < 32) : (fieldAt lo (BitVec.ofBool v))[lo] = v := by
  simp [getElem_fieldAt]

theorem getElem_fieldAt_of_disjoint {n lo : Nat} (v : BitVec n) {i : Nat} (hi : i < 32) (h : i < lo ∨ lo + n ≤ i) :
    (fieldAt lo v)[i] = false := by
  obtain h | h := h
  · simp [getElem_fieldAt, show ¬ lo ≤ i by omega]
  · simp [getElem_fieldAt, v.getLsbD_of_ge (i - lo) (by omega)]

theorem State.hostWriteReg_offset (s : State) (r : Reg) (v : Word) : s.hostWriteReg r.offset v = s.writeReg r v := by
  simp only [State.hostWriteReg, regAt_offset]

/-- Settles O11: each bit range of STATUS meets one of its seven fields, or none. -/
theorem statusShowsEachFieldAtItsBits : Obligations.StatusShowsEachFieldAtItsBits := by
  intro s v
  have hwrite : hostWrite Reg.status.offset v s = .next s := by
    rw [hostWrite, if_neg (by decide), State.hostWriteReg_offset]
    rfl
  refine ⟨?_, ?_, ?_, ?_, ?_, ?_, ?_, ?_, ?_, ?_, ?_, hwrite⟩ <;>
    simp [State.status, BitVec.extractLsb'_or, extractLsb'_fieldAt_self, extractLsb'_fieldAt_of_disjoint,
      getElem_fieldAt_ofBool_self, getElem_fieldAt_of_disjoint]

/-- Settles O12: each bit range of FLT_INFO and FRM_INFO meets one of their fields, or none. -/
theorem infoWordsShowEachFieldAtItsBits : Obligations.InfoWordsShowEachFieldAtItsBits := by
  intro f g
  refine ⟨?_, ?_, ?_, ?_, ?_, ?_, ?_, ?_, ?_, ?_, ?_, ?_, ?_⟩ <;>
    simp [FltUnit.info, FrmUnit.info, BitVec.extractLsb'_or, extractLsb'_fieldAt_self,
      extractLsb'_fieldAt_of_disjoint, getElem_fieldAt_ofBool_self, getElem_fieldAt_of_disjoint]

theorem State.hostRead_of_regAt_none {off : Nat} (h : regAt off = none) (s : State) : s.hostRead off = 0 := by
  simp only [State.hostRead, h]

/-- Settles O9: each offset is a register's own, and the window ends at 0x5C. -/
theorem registerWindowReadsTheStateItNames : Obligations.RegisterWindowReadsTheStateItNames := by
  intro s
  have hreg := s.hostRead_offset
  exact ⟨hreg .cmd, hreg .data, hreg .status, hreg .id, hreg .crcState, hreg .crcValue, hreg .fltCfg, hreg .fltWidth,
    hreg .fltHeight, hreg .fltRowLen, hreg .fltLHeight, hreg .fltRow, hreg .fltCol, hreg .fltInfo, hreg .frmCtrl,
    hreg .frmLen, hreg .frmType, hreg .frmCrcRx, hreg .frmCrcCalc, hreg .frmRem, hreg .frmPos, hreg .frmNchunk,
    hreg .frmInfo, fun _ hoff => State.hostRead_of_regAt_none (regAt_reserved hoff) s⟩

/-- Every register of `s` holds its reset value (70_reset_and_hazards.md R340). -/
structure State.RegistersReset (s : State) : Prop where
  data : s.data = 0
  cmdCode : s.cmdCode = .noError
  crcState : s.crcState = 0xFFFFFFFF
  flt : s.flt = FltUnit.reset
  frm : s.frm = FrmUnit.reset

theorem State.resetWith_registersReset (p : Params) : (State.resetWith p).RegistersReset := ⟨rfl, rfl, rfl, rfl, rfl⟩

/-- Only ID, CRC_STATE, FLT_CFG and FRM_CTRL read a reset value other than 0 (10_state.md R33). -/
theorem State.RegistersReset.hostRead {s : State} (h : s.RegistersReset) (off : Nat) :
    s.hostRead off =
      if off = 0x0C then 0x504E4701 else if off = 0x10 then 0xFFFFFFFF else if off = 0x18 then 0x00000800
      else if off = 0x38 then 0x00000007 else 0 := by
  obtain ⟨hdata, hcmd, hcrc, hflt, hfrm⟩ := h
  cases hreg : regAt off with
  | none =>
    have hne (r : Reg) : off ≠ r.offset := by
      rintro rfl
      simp [regAt_offset] at hreg
    rw [State.hostRead_of_regAt_none hreg]
    exact ((if_neg (hne .id)).trans <| (if_neg (hne .crcState)).trans <| (if_neg (hne .fltCfg)).trans <|
      if_neg (hne .frmCtrl)).symm
  | some r =>
    obtain rfl := regAt_eq_some hreg
    rw [State.hostRead_offset]
    cases r <;>
      simp only [State.readReg, State.status, State.crcValue, hdata, hcmd, hcrc, hflt, hfrm] <;> decide

/-- Settles O14: power-on puts every register to its reset value, whatever the parameters. -/
theorem powerOnStateReadsTheResetValues : Obligations.PowerOnStateReadsTheResetValues :=
  ⟨rfl, fun p => ⟨(State.resetWith_registersReset p).hostRead, rfl, rfl, rfl⟩⟩

end Sys2Proof.Machine
end

section

namespace Sys2Proof.Machine

/-! ### Host accesses to the window (20_memory.md R73 to R80) -/

theorem step_of_pending {s : State} {e : HostEvent} {rest : List HostEvent} (h : s.pending = e :: rest) :
    step s = serve e (s.setPending rest) := by
  simp only [step, h]

/-- Settles O8: the offset is the access's own, and serving a read only appends the reply. -/
theorem hostReadReturnsTheValueAndChangesNothing : Obligations.HostReadReturnsTheValueAndChangesNothing := by
  intro s off rest h4 hlt hpending
  have hoff : busOffset (s.setPending rest).params .w32 (s.params.base + off) = some off := busOffset_base s.params h4 hlt
  rw [step_of_pending hpending, serve, hoff]
  rfl

/-- The four ways an access fails to be a transaction (20_memory.md R78). -/
theorem busOffset_eq_none_iff {p : Params} {width : AccessWidth} {addr : Nat} :
    busOffset p width addr = none ↔
      width ≠ .w32 ∨ addr < p.base ∨ (addr - p.base) % 4 ≠ 0 ∨ 0x100 ≤ addr - p.base := by
  rw [← Option.not_isSome_iff_eq_none, busOffset_isSome]
  simp only [accessWf, Bool.and_eq_true, decide_eq_true_eq, not_and_or, Nat.not_le, Nat.not_lt, or_assoc, ne_eq]

theorem runWord_ne_refused (w : Word) (s : State) (r : Refusal) : runWord w s ≠ .refused r := by
  unfold runWord
  split
  · simp
  · next i _ =>
    obtain ⟨t, hnext⟩ | ⟨-, -, -, hfault⟩ := exec_total i s
    · simp [hnext]
    · simp [hfault]

theorem hostWrite_ne_refused (off : Nat) (v : Word) (s : State) (r : Refusal) : hostWrite off v s ≠ .refused r := by
  unfold hostWrite
  split
  · exact runWord_ne_refused v s r
  · simp

section

variable {s : State} {width : AccessWidth} {addr : Nat} {e : HostEvent}
  (he : e = .read width addr ∨ ∃ v, e = .write width addr v)

include he

theorem serve_access_of_busOffset_none (h : busOffset s.params width addr = none) :
    serve e s = .refused .notATransaction := by
  obtain rfl | ⟨v, rfl⟩ := he <;> simp only [serve, h]

theorem serve_access_ne_refused {off : Nat} (h : busOffset s.params width addr = some off) (r : Refusal) :
    serve e s ≠ .refused r := by
  obtain rfl | ⟨v, rfl⟩ := he <;> simp only [serve, h]
  · simp
  · exact hostWrite_ne_refused off v s r

end

/-- Settles O7: an access without an offset is refused; at an offset a read answers, and so does a write, which may fault
but is never refused. -/
theorem onlyAlignedWordAccessesAreServed : Obligations.OnlyAlignedWordAccessesAreServed := by
  intro s width addr e rest he hpending
  rw [step_of_pending hpending]
  constructor
  · intro hnone
    exact serve_access_of_busOffset_none he (busOffset_eq_none_iff.mpr hnone)
  · rintro rfl hbase h4 hlt
    obtain ⟨off, rfl⟩ := Nat.exists_eq_add_of_le hbase
    rw [Nat.add_sub_cancel_left] at h4 hlt
    exact serve_access_ne_refused he (busOffset_base s.params h4 hlt)

theorem hostWrite_offset {r : Reg} (hr : r.offset ≠ Reg.cmd.offset) (v : Word) (s : State) :
    hostWrite r.offset v s = .next (s.writeReg r v) := by
  rw [hostWrite, if_neg hr, State.hostWriteReg_offset]

/-- An offset that is neither CMD's nor a writable register's is a read-only register's or reserved. -/
theorem hostWrite_of_not_writable {off : Nat} (hoff : off ∉ ([0x00, 0x04, 0x18, 0x1C, 0x20, 0x38] : List Nat))
    (v : Word) (s : State) : hostWrite off v s = .next s := by
  cases hreg : regAt off with
  | none =>
    have hcmd : off ≠ Reg.cmd.offset := fun h => hoff (by simp [h, Reg.offset])
    simp only [hostWrite, if_neg hcmd, State.hostWriteReg, hreg]
  | some r =>
    obtain rfl := regAt_eq_some hreg
    cases r with
    | cmd | data | fltCfg | fltWidth | fltHeight | frmCtrl => simp [Reg.offset] at hoff
    | _ => exact hostWrite_offset (by decide) v s

/-- A register that holds the low `n` bits of a word reads back as the word under their mask. -/
theorem setWidth_setWidth_eq_and_mask {n : Nat} (v : Word) (h : n ≤ 32) :
    (v.setWidth n).setWidth 32 = v &&& BitVec.ofNat 32 (2 ^ n - 1) := by
  have hpow : 2 ^ n ≤ 2 ^ 32 := Nat.pow_le_pow_right (by decide) h
  apply BitVec.eq_of_toNat_eq
  simp only [BitVec.toNat_setWidth, BitVec.toNat_and, BitVec.toNat_ofNat]
  rw [Nat.mod_eq_of_lt (show 2 ^ n - 1 < 2 ^ 32 by omega), Nat.and_two_pow_sub_one_eq_mod]
  exact Nat.mod_eq_of_lt (by have := Nat.mod_lt v.toNat (Nat.two_pow_pos n); omega)

/-- Settles O10: a write to CMD runs the word, any other is the write of the register at its offset. -/
theorem hostWriteDoesExactlyWhatItsOffsetSays : Obligations.HostWriteDoesExactlyWhatItsOffsetSays := by
  intro s v
  refine ⟨rfl, hostWrite_offset (r := .data) (by decide) v s, hostWrite_offset (r := .fltWidth) (by decide) v s,
    hostWrite_offset (r := .fltHeight) (by decide) v s, ?fltCfg, ?frmCtrl,
    fun _ hoff => hostWrite_of_not_writable hoff v s⟩
  case fltCfg =>
    refine ⟨_, hostWrite_offset (r := .fltCfg) (by decide) v s, rfl, ?_⟩
    exact (State.hostRead_offset _ .fltCfg).trans (setWidth_setWidth_eq_and_mask v (by decide))
  case frmCtrl =>
    refine ⟨_, hostWrite_offset (r := .frmCtrl) (by decide) v s, rfl, ?_⟩
    exact (State.hostRead_offset _ .frmCtrl).trans (setWidth_setWidth_eq_and_mask v (by decide))

end Sys2Proof.Machine
end

section

namespace Sys2Proof

/-! ### Which words decode, and to what (30_encoding.md R100 to R104) -/

/-- The 11 opcodes of R101. -/
def opcodes : List Byte := [0x00, 0x01, 0x02, 0x10, 0x11, 0x12, 0x20, 0x21, 0x30, 0x31, 0x32]

/-- The opcodes whose word carries a byte operand (R102). -/
def byteOpcodes : List Byte := [0x11, 0x21, 0x31]

theorem Instr.opcode_mem_opcodes (i : Instr) : i.opcode ∈ opcodes := by
  cases i <;> simp [Instr.opcode, opcodes]

theorem Instr.takesByte_iff (i : Instr) : i.takesByte = true ↔ i.opcode ∈ byteOpcodes := by
  cases i <;> simp [Instr.takesByte, Instr.opcode, byteOpcodes]

theorem Instr.byteOperand_eq_zero {i : Instr} (h : i.takesByte = false) : i.byteOperand = 0 := by
  cases i with
  | crcB _ | fltB _ | frmB _ => simp [Instr.takesByte] at h
  | _ => rfl

theorem commandOf_eq_none_of_not_mem {op : Byte} (h : op ∉ opcodes) (b : Byte) : commandOf op b = none := by
  cases hi : commandOf op b with
  | none => rfl
  | some i =>
    obtain ⟨rfl, -⟩ := commandOf_opcode hi
    exact absurd i.opcode_mem_opcodes h

theorem exists_commandOf_of_mem {op : Byte} (h : op ∈ opcodes) (b : Byte) : ∃ i, commandOf op b = some i := by
  simp only [opcodes, List.mem_cons, List.not_mem_nil, or_false] at h
  rcases h with rfl | rfl | rfl | rfl | rfl | rfl | rfl | rfl | rfl | rfl | rfl <;> exact ⟨_, rfl⟩

/-- A word's reserved bits are not 0: RSV, or B where B is no operand (R103). -/
def ReservedNonzero (w : Word) : Prop := rsvField w ≠ 0 ∨ (opField w ∉ byteOpcodes ∧ bField w ≠ 0)

theorem decode_of_commandOf_none {w : Word} (h : commandOf (opField w) (bField w) = none) :
    decode w = .error .undefOp := by
  simp only [decode, h]

section

variable {w : Word} {i : Instr} (h : commandOf (opField w) (bField w) = some i)

include h

theorem takesByte_eq_false_iff_of_commandOf : i.takesByte = false ↔ opField w ∉ byteOpcodes := by
  rw [(commandOf_opcode h).1, ← i.takesByte_iff, Bool.not_eq_true]

theorem decode_of_reservedNonzero (hbad : ReservedNonzero w) : decode w = .error .rsvdNonzero := by
  simp only [decode, h, takesByte_eq_false_iff_of_commandOf h]
  obtain hrsv | hb := hbad
  · rw [if_pos hrsv]
  · rw [if_pos hb, ite_self]

theorem decode_of_not_reservedNonzero (hgood : ¬ ReservedNonzero w) : decode w = .ok i := by
  obtain ⟨hrsv, hb⟩ := not_or.mp hgood
  simp only [decode, h, takesByte_eq_false_iff_of_commandOf h]
  rw [if_neg hrsv, if_neg hb]

end

/-- A word decodes to a command exactly when its three fields are the command's. -/
theorem decode_eq_ok_iff_fields {w : Word} {i : Instr} :
    decode w = .ok i ↔ opField w = i.opcode ∧ rsvField w = 0 ∧ bField w = i.byteOperand := by
  constructor
  · intro h
    obtain ⟨hcmd, hrsv, hb⟩ := decode_ok_fields h
    obtain ⟨hop, hoperand⟩ := commandOf_opcode hcmd
    refine ⟨hop, hrsv, ?_⟩
    cases htakes : i.takesByte with
    | true => exact (hoperand htakes).symm
    | false => rw [Instr.byteOperand_eq_zero htakes, hb.resolve_left (by simp [htakes])]
  · rintro ⟨hop, hrsv, hb⟩
    have hcmd : commandOf (opField w) (bField w) = some i := by rw [hop, hb, commandOf_self]
    apply decode_of_not_reservedNonzero hcmd
    rintro (hr | ⟨hno, hne⟩)
    · exact hr hrsv
    · have htakes : i.takesByte = false := (takesByte_eq_false_iff_of_commandOf hcmd).mpr hno
      exact hne (hb.trans (Instr.byteOperand_eq_zero htakes))

/-- A word decodes to a command exactly when it is the command's encoding. -/
theorem decode_eq_ok_iff {w : Word} {i : Instr} : decode w = .ok i ↔ encode i = w := by
  obtain ⟨hop, hrsv, hb⟩ := encode_fields i
  rw [decode_eq_ok_iff_fields, ← hop, ← hb]
  constructor
  · rintro ⟨hop', hrsv', hb'⟩
    exact word_eq_of_fields hop'.symm (hrsv.trans hrsv'.symm) hb'.symm
  · rintro rfl
    exact ⟨rfl, hrsv, rfl⟩

theorem decode_encode (i : Instr) : decode (encode i) = .ok i := decode_eq_ok_iff.mpr rfl

/-! ### The rows of the opcode table (30_encoding.md R101) -/

theorem tableRow_statement (i : Instr) : Laws.TableRow.Statement i :=
  match i with
  | .nop => Laws.TableRow.nop
  | .clrerr => Laws.TableRow.clrerr
  | .srst => Laws.TableRow.srst
  | .crcInit => Laws.TableRow.crcInit
  | .crcB b => Laws.TableRow.crcB b
  | .crcLd => Laws.TableRow.crcLd
  | .fltStart => Laws.TableRow.fltStart
  | .fltB b => Laws.TableRow.fltB b
  | .frmStart => Laws.TableRow.frmStart
  | .frmB b => Laws.TableRow.frmB b
  | .frmEos => Laws.TableRow.frmEos

/-- A row's opcode is one of the 11, and a row whose mask leaves B out has an opcode with a byte operand. -/
theorem opcodeTable_opcodes :
    ∀ r ∈ opcodeTable, opField r.matchBits ∈ opcodes ∧
      (r.mask = 0xFFFFFFFF ∨ opField r.matchBits ∈ byteOpcodes) := by decide

theorem opcodeTable_opcodes_ne :
    opcodeTable.Pairwise (fun r q => opField r.matchBits ≠ opField q.matchBits) := by decide

theorem exists_decode_of_match {w : Word} {r : OpcodeRow} (hr : r ∈ opcodeTable) (h : w &&& r.mask = r.matchBits) :
    ∃ i, decode w = .ok i := by
  obtain ⟨hop, hrsv, hb⟩ := (Laws.TableRow.match_iff hr).mp h
  obtain ⟨hmem, hbyte⟩ := opcodeTable_opcodes r hr
  rw [← hop] at hmem hbyte
  obtain ⟨i, hi⟩ := exists_commandOf_of_mem hmem (bField w)
  refine ⟨i, decode_of_not_reservedNonzero hi ?_⟩
  rintro (hr' | ⟨hno, hne⟩)
  · exact hr' hrsv
  · exact hne (hb (hbyte.resolve_right hno))

/-- A command's word matches the row of its mnemonic and no other, so a matching word needs only to decode. -/
theorem match_iff_decode {w : Word} {r : OpcodeRow} (hr : r ∈ opcodeTable) :
    w &&& r.mask = r.matchBits ↔ ∃ i, decode w = .ok i ∧ i.mnemonic = r.mnemonic := by
  constructor
  · intro h
    obtain ⟨i, hi⟩ := exists_decode_of_match hr h
    obtain rfl := decode_eq_ok_iff.mp hi
    exact ⟨i, hi, ((tableRow_statement i r hr).mp h).symm⟩
  · rintro ⟨i, hi, hname⟩
    obtain rfl := decode_eq_ok_iff.mp hi
    exact (tableRow_statement i r hr).mpr hname.symm

theorem not_match_both {r q : OpcodeRow} (hr : r ∈ opcodeTable) (hq : q ∈ opcodeTable)
    (hne : opField r.matchBits ≠ opField q.matchBits) (w : Word) :
    ¬ (w &&& r.mask = r.matchBits ∧ w &&& q.mask = q.matchBits) := by
  rintro ⟨hwr, hwq⟩
  exact hne (((Laws.TableRow.match_iff hr).mp hwr).1.symm.trans ((Laws.TableRow.match_iff hq).mp hwq).1)

theorem exists_row (i : Instr) : ∃ r ∈ opcodeTable, r.mnemonic = i.mnemonic := by
  cases i <;> simp [opcodeTable, Instr.mnemonic]

end Sys2Proof
end

section

namespace Sys2Proof.Machine

/-! ### The statements about the encoding -/

/-- Settles O1: the fields of the encoding are the command's. -/
theorem decodeOfEncodeGivesTheCommand : Obligations.DecodeOfEncodeGivesTheCommand :=
  decode_encode

/-- Settles O2: a decoded word has the command's three fields, so it is the command's encoding. -/
theorem onlyTheEncodingDecodesToACommand : Obligations.OnlyTheEncodingDecodesToACommand :=
  fun _ _ => decode_eq_ok_iff.mp

/-- Settles O3: a row fixes the opcode, RSV and, without operand, B; the rows' opcodes differ. -/
theorem wordIsTheRowsCommandExactlyWhenMasked : Obligations.WordIsTheRowsCommandExactlyWhenMasked := by
  refine ⟨fun w r hr => match_iff_decode hr, ?_, exists_row⟩
  exact opcodeTable_opcodes_ne.imp_of_mem fun hr hq => not_match_both hr hq

theorem runWord_of_ok {w : Word} {i : Instr} (h : decode w = .ok i) (s : State) : runWord w s = exec i s := by
  simp only [runWord, h]

theorem runWord_of_error {w : Word} {e : DecodeError} (h : decode w = .error e) (s : State) :
    runWord w s = .next (s.raiseCmd (cmdCodeOf e)) := by
  simp only [runWord, h]

/-- Settles O4: an opcode outside the 11 is no command's; the reserved bits of any other word decide, and a legal word is
the command of its opcode and byte. -/
theorem decoderClassifiesEveryWordInOrder : Obligations.DecoderClassifiesEveryWordInOrder := by
  intro w
  refine ⟨?undefined, ?reserved, ?legal, rfl, rfl, ?refused⟩
  case undefined =>
    intro hop
    exact decode_of_commandOf_none (commandOf_eq_none_of_not_mem hop _)
  case reserved =>
    intro hop hbad
    obtain ⟨i, hi⟩ := exists_commandOf_of_mem hop (bField w)
    exact decode_of_reservedNonzero hi hbad
  case legal =>
    intro hop hgood
    obtain ⟨i, hi⟩ := exists_commandOf_of_mem (op := opField w) hop (bField w)
    have hok : decode w = .ok i := decode_of_not_reservedNonzero hi hgood
    have hcommand {op : Byte} {j : Instr} (hj : commandOf op (bField w) = some j) (h : opField w = op) : i = j :=
      Option.some.inj (hi.symm.trans (h ▸ hj))
    exact ⟨i, hok, decode_eq_ok_iff.mp hok, runWord_of_ok hok, hcommand rfl, hcommand rfl, hcommand rfl, hcommand rfl,
      hcommand rfl, hcommand rfl, hcommand rfl, hcommand rfl, hcommand rfl, hcommand rfl, hcommand rfl⟩
  case refused =>
    intro e s he
    rw [runWord_of_error he, State.raiseCmd_eq]

/-- Settles O5: six of the words are encodings, and the refused ones are decoded. -/
theorem sampleWordsDecodeAsTheSpecWritesThem : Obligations.SampleWordsDecodeAsTheSpecWritesThem :=
  ⟨decode_encode .srst, decode_encode (.crcB 0x49), decode_encode .fltStart, decode_encode (.fltB 0xFF),
    decode_encode (.frmB 0x89), decode_encode .frmEos, by decide, by decide, by decide⟩

end Sys2Proof.Machine
end

section

namespace Sys2Proof.Machine

/-! ### The encoding rule of a command without operand (30_encoding.md R103) -/

/-- Without an operand the opcode alone names the command. -/
theorem commandOf_opcode_of_not_takesByte {i : Instr} (hi : i.takesByte = false) (b : Byte) :
    commandOf i.opcode b = some i := by
  cases i with
  | crcB _ | fltB _ | frmB _ => cases hi
  | _ => rfl

/-- A word with the command's opcode has a reserved bit set, or else decodes to the command and so is its encoding. -/
theorem encodedByOneWord_encode {i : Instr} (hi : i.takesByte = false) : EncodedByOneWord i (encode i) := by
  intro w hop
  have hopcode : opField w = i.opcode := Eq.trans hop (encode_fields i).1
  have hcommand : commandOf (opField w) (bField w) = some i := by
    rw [hopcode, commandOf_opcode_of_not_takesByte hi]
  by_cases hw : w = encode i
  · rw [if_pos hw, hw, decode_encode]
  · have hbad : ReservedNonzero w := by
      by_contra hgood
      exact hw (decode_eq_ok_iff.mp (decode_of_not_reservedNonzero hcommand hgood)).symm
    rw [if_neg hw, decode_of_reservedNonzero hcommand hbad]

end Sys2Proof.Machine
end

section

namespace Sys2Proof.Machine

/-! ### Only SRST changes the configuration registers (40_control.md R135) -/

/-- FLT_CFG, FLT_WIDTH and FLT_HEIGHT hold the same values in `f` and `g`. -/
def FltUnit.SameConfig (f g : FltUnit) : Prop :=
  g.cfg = f.cfg ∧ g.width = f.width ∧ g.height = f.height

theorem FltUnit.start_sameConfig (maxRow : Nat) (f : FltUnit) : f.SameConfig (f.start maxRow) := by
  obtain ⟨c, -, h⟩ | ⟨n, -, -, -, -, h⟩ := f.start_cases maxRow <;> rw [h] <;> exact ⟨rfl, rfl, rfl⟩

theorem FltUnit.tagStep_sameConfig (f : FltUnit) (b : Byte) : f.SameConfig (f.tagStep b) := by
  obtain ⟨-, h⟩ | ⟨t, -, -, h⟩ := f.tagStep_cases b <;> rw [h] <;> exact ⟨rfl, rfl, rfl⟩

theorem FltUnit.dataStep_sameConfig (draw : Nat) (f : FltUnit) (b : Byte) : f.SameConfig (f.dataStep draw b) := by
  obtain ⟨hcfg, hwidth, hheight, -⟩ := f.dataStep_frame draw b
  exact ⟨hcfg, hwidth, hheight⟩

@[simp] theorem FrmUnit.sigStep_ctrl (f : FrmUnit) (b : Byte) : (f.sigStep b).ctrl = f.ctrl := by
  obtain ⟨-, -, h⟩ | ⟨-, -, h⟩ | ⟨-, h⟩ := f.sigStep_cases b <;> simp [h]

@[simp] theorem FrmUnit.lenStep_ctrl (f : FrmUnit) (b : Byte) : (f.lenStep b).ctrl = f.ctrl := by
  unfold FrmUnit.lenStep
  dsimp only
  split <;> rfl

@[simp] theorem FrmUnit.markSeen_ctrl (f : FrmUnit) (t : Word) : (f.markSeen t).ctrl = f.ctrl := rfl

@[simp] theorem FrmUnit.completeType_ctrl (f : FrmUnit) : f.completeType.1.ctrl = f.ctrl := by
  obtain ⟨-, -, h⟩ | ⟨-, h⟩ := f.completeType_cases <;> simp [h]

@[simp] theorem FrmUnit.typeStep_ctrl (f : FrmUnit) (b : Byte) : (f.typeStep b).1.ctrl = f.ctrl := by
  unfold FrmUnit.typeStep
  dsimp only
  split
  · rw [FrmUnit.completeType_ctrl]
  · rfl

@[simp] theorem FrmUnit.dataStep_ctrl (f : FrmUnit) (b : Byte) : (f.dataStep b).1.ctrl = f.ctrl := by
  unfold FrmUnit.dataStep
  dsimp only
  split <;> rfl

@[simp] theorem FrmUnit.completeCrc_ctrl (f : FrmUnit) : f.completeCrc.1.ctrl = f.ctrl := by
  obtain ⟨-, -, h⟩ | ⟨-, h⟩ := f.completeCrc_cases <;> simp [h]

@[simp] theorem FrmUnit.crcFieldStep_ctrl (f : FrmUnit) (b : Byte) : (f.crcFieldStep b).1.ctrl = f.ctrl := by
  unfold FrmUnit.crcFieldStep
  dsimp only
  split
  · rw [FrmUnit.completeCrc_ctrl]
  · rfl

/-- The registers that the host writes (20_memory.md R75) hold the same values in `s` and `t`. -/
def State.SameConfig (s t : State) : Prop :=
  t.data = s.data ∧ s.flt.SameConfig t.flt ∧ t.frm.ctrl = s.frm.ctrl

theorem State.SameConfig.refl (s : State) : s.SameConfig s := ⟨rfl, ⟨rfl, rfl, rfl⟩, rfl⟩

theorem State.sameConfig_raiseCmd (s : State) (c : CmdCode) : s.SameConfig (s.raiseCmd c) := by
  rw [State.raiseCmd_eq]
  exact ⟨rfl, ⟨rfl, rfl, rfl⟩, rfl⟩

theorem State.sameConfig_afterFrm (s : State) {r : FrmUnit × List FrmRecord} (h : r.1.ctrl = s.frm.ctrl) :
    s.SameConfig (s.afterFrm r) :=
  ⟨rfl, ⟨rfl, rfl, rfl⟩, h⟩

theorem execFltB_sameConfig {b : Byte} {s t : State} (h : execFltB b s = .next t) : s.SameConfig t := by
  obtain ⟨-, rfl⟩ | ⟨-, rfl⟩ | ⟨-, rfl⟩ | ⟨-, rfl⟩ | ⟨-, -, rfl⟩ := execFltB_cases h
  · exact s.sameConfig_raiseCmd _
  · exact .refl _
  · exact ⟨rfl, ⟨rfl, rfl, rfl⟩, rfl⟩
  · exact ⟨rfl, s.flt.tagStep_sameConfig b, rfl⟩
  · exact ⟨rfl, s.flt.dataStep_sameConfig s.draw b, rfl⟩

theorem execFrmB_sameConfig {b : Byte} {s t : State} (h : execFrmB b s = .next t) : s.SameConfig t := by
  obtain ⟨-, rfl⟩ | ⟨-, rfl⟩ | ⟨-, rfl⟩ | ⟨-, rfl⟩ | ⟨-, rfl⟩ | ⟨-, rfl⟩ | ⟨-, rfl⟩ | ⟨-, rfl⟩ := execFrmB_cases h
  · exact s.sameConfig_raiseCmd _
  · exact .refl _
  · exact s.sameConfig_afterFrm (s.frm.consume.sigStep_ctrl b)
  · exact s.sameConfig_afterFrm (s.frm.consume.lenStep_ctrl b)
  · exact s.sameConfig_afterFrm (s.frm.consume.typeStep_ctrl b)
  · exact s.sameConfig_afterFrm (s.frm.consume.dataStep_ctrl b)
  · exact s.sameConfig_afterFrm (s.frm.consume.crcFieldStep_ctrl b)
  · exact s.sameConfig_afterFrm rfl

theorem execFrmEos_sameConfig {s t : State} (h : execFrmEos s = .next t) : s.SameConfig t := by
  obtain ⟨-, rfl⟩ | ⟨-, rfl⟩ | ⟨-, rfl⟩ := execFrmEos_cases h
  · exact s.sameConfig_raiseCmd _
  · exact .refl _
  · exact ⟨rfl, ⟨rfl, rfl, rfl⟩, rfl⟩

theorem exec_sameConfig {i : Instr} {s t : State} (hi : i ≠ .srst) (h : exec i s = .next t) : s.SameConfig t := by
  cases i with
  | srst => exact absurd rfl hi
  | fltB b => exact execFltB_sameConfig h
  | frmB b => exact execFrmB_sameConfig h
  | frmEos => exact execFrmEos_sameConfig h
  | fltStart => cases h; exact ⟨rfl, s.flt.start_sameConfig _, rfl⟩
  | nop | clrerr | crcInit | crcB _ | crcLd | frmStart => cases h; exact ⟨rfl, ⟨rfl, rfl, rfl⟩, rfl⟩

theorem State.applyReset_registersReset (s : State) : s.applyReset.RegistersReset := ⟨rfl, rfl, rfl, rfl, rfl⟩

/-- Settles O13: both resets answer `applyReset`, whose registers read their reset values; a command other than SRST
keeps the configuration. -/
theorem bothResetsLeaveTheResetValues : Obligations.BothResetsLeaveTheResetValues := by
  refine ⟨encodedByOneWord_encode (i := .srst) rfl, fun s => ?reset, ?config⟩
  case reset =>
    exact ⟨s.applyReset, rfl, rfl, s.applyReset_registersReset.hostRead, rfl, rfl, rfl, rfl, rfl, rfl, rfl, rfl, rfl,
      rfl, rfl⟩
  case config =>
    intro i s t hi h
    obtain ⟨hdata, ⟨hcfg, hwidth, hheight⟩, hctrl⟩ := exec_sameConfig hi h
    exact ⟨hdata, hcfg, hwidth, hheight, hctrl⟩

end Sys2Proof.Machine
end

section

namespace Sys2Proof.Machine

/-! ### A command changes nothing of a unit it does not name (40_control.md R131) -/

theorem State.raiseCmd_frame (s : State) (c : CmdCode) :
    s.raiseCmd c = { s with cmdCode := (s.raiseCmd c).cmdCode } := by
  rw [State.raiseCmd_eq]

theorem execFltB_frame {b : Byte} {s t : State} (hst : s.flt.st ≠ .idle) (h : execFltB b s = .next t) :
    t = { s with flt := t.flt, fltOut := t.fltOut } := by
  obtain ⟨hidle, -⟩ | ⟨-, rfl⟩ | ⟨-, rfl⟩ | ⟨-, rfl⟩ | ⟨-, -, rfl⟩ := execFltB_cases h
  · exact absurd hidle hst
  all_goals rfl

theorem execFltB_frame_of_idle {b : Byte} {s t : State} (hst : s.flt.st = .idle) (h : execFltB b s = .next t) :
    t = { s with cmdCode := t.cmdCode } := by
  cases (execFltB_of_idle hst b).symm.trans h
  exact s.raiseCmd_frame _

theorem execFrmB_frame {b : Byte} {s t : State} (hst : s.frm.st ≠ .idle) (h : execFrmB b s = .next t) :
    t = { s with frm := t.frm, frmOut := t.frmOut } := by
  obtain ⟨hidle, -⟩ | ⟨-, rfl⟩ | ⟨-, rfl⟩ | ⟨-, rfl⟩ | ⟨-, rfl⟩ | ⟨-, rfl⟩ | ⟨-, rfl⟩ | ⟨-, rfl⟩ := execFrmB_cases h
  · exact absurd hidle hst
  all_goals rfl

theorem execFrmB_frame_of_idle {b : Byte} {s t : State} (hst : s.frm.st = .idle) (h : execFrmB b s = .next t) :
    t = { s with cmdCode := t.cmdCode } := by
  cases (execFrmB_of_idle hst b).symm.trans h
  exact s.raiseCmd_frame _

theorem execFrmEos_frame {s t : State} (hst : s.frm.st ≠ .idle) (h : execFrmEos s = .next t) :
    t = { s with frm := t.frm, frmOut := t.frmOut } := by
  obtain ⟨hidle, -⟩ | ⟨-, rfl⟩ | ⟨-, rfl⟩ := execFrmEos_cases h
  · exact absurd hidle hst
  all_goals rfl

theorem execFrmEos_frame_of_idle {s t : State} (hst : s.frm.st = .idle) (h : execFrmEos s = .next t) :
    t = { s with cmdCode := t.cmdCode } := by
  cases (execFrmEos_of_idle hst).symm.trans h
  exact s.raiseCmd_frame _

/-- Settles O24: a command sets fields of its own unit and appends to its own stream; in IDLE the byte commands and
FRM.EOS only record a command error. -/
theorem commandsLeaveOtherUnitsAlone : Obligations.CommandsLeaveOtherUnitsAlone := by
  intro i s t h
  refine ⟨?crc, ?fltStart, ?fltB, ?fltBIdle, ?frm, ?frmIdle, ?streams⟩
  case crc => rintro (rfl | ⟨b, rfl⟩ | rfl) <;> cases h <;> rfl
  case fltStart => rintro rfl; cases h; rfl
  case fltB => rintro ⟨b, rfl⟩ hst; exact execFltB_frame hst h
  case fltBIdle => rintro ⟨b, rfl⟩ hst; exact execFltB_frame_of_idle hst h
  case frm =>
    rintro (rfl | ⟨⟨b, rfl⟩ | rfl, hst⟩)
    · cases h; rfl
    · exact execFrmB_frame hst h
    · exact execFrmEos_frame hst h
  case frmIdle =>
    rintro (⟨b, rfl⟩ | rfl) hst
    · exact execFrmB_frame_of_idle hst h
    · exact execFrmEos_frame_of_idle hst h
  case streams => rintro (rfl | rfl) <;> cases h <;> exact ⟨rfl, rfl⟩

end Sys2Proof.Machine
end

section

namespace Sys2Proof.Machine

/-! ### The step of a command word, NOP and CLRERR (40_control.md R130, R133, R134) -/

/-- The word at BASE, the offset of CMD, is run. -/
theorem serve_write_cmd (s : State) (w : Word) : serve (.write .w32 s.params.base w) s = runWord w s := by
  have hoff : busOffset s.params .w32 s.params.base = some 0 := busOffset_base (off := 0) s.params rfl (by decide)
  simp only [serve, hoff]
  rfl

theorem step_of_pending_cmd {s : State} {w : Word} {rest : List HostEvent}
    (h : s.pending = .write .w32 s.params.base w :: rest) : step s = runWord w (s.setPending rest) := by
  rw [step_of_pending h]
  exact serve_write_cmd (s.setPending rest) w

/-- Settles O6: the write is served at CMD's offset, where the word runs; the reset event and SRST are one function. -/
theorem stepRunsTheDecodedCommand : Obligations.StepRunsTheDecodedCommand := by
  refine ⟨fun s w rest hpending => ⟨fun i hi => ?legal, fun e he => ?refused⟩, fun s rest hpending => ?reset,
    fun s hpending => ?idle⟩
  case legal =>
    rw [step_of_pending_cmd hpending, runWord_of_ok hi]
    rfl
  case refused =>
    rw [step_of_pending_cmd hpending, runWord_of_error he, State.raiseCmd_eq]
    rfl
  case reset =>
    rw [step_of_pending hpending]
    rfl
  case idle => simp only [step, hpending]

/-- Settles O25: NOP's word is its encoding, and its rule is the identity. -/
theorem nopCompletesAndChangesNothing : Obligations.NopCompletesAndChangesNothing :=
  ⟨encodedByOneWord_encode (i := .nop) rfl, fun _ => rfl⟩

/-- Settles O26: CLRERR's word is its encoding, and its rule sets CMD_ECODE alone. -/
theorem clrerrClearsTheCommandErrorAlone : Obligations.ClrerrClearsTheCommandErrorAlone :=
  ⟨encodedByOneWord_encode (i := .clrerr) rfl, fun _ => rfl⟩

end Sys2Proof.Machine
end

section

namespace Sys2Proof.Machine

/-! ### The CRC byte update (41_crc.md R160, R167) -/

/-- `n` bits of the update are `n` rounds of the one-bit update. -/
theorem crcBits_eq_iterate (n : Nat) (c : Word) : crcBits n c = crcBit^[n] c := by
  induction n generalizing c with
  | zero => rfl
  | succ n ih => exact ih (crcBit c)

/-- One bit shifts right and adds the polynomial times the bit shifted out. -/
theorem crcBit_eq_shift_xor (c : Word) : crcBit c = (c >>> 1) ^^^ (if c.getLsbD 0 then 0xEDB88320 else 0) := by
  unfold crcBit
  split
  · rfl
  · exact BitVec.xor_zero.symm

theorem crcBit_xor (c d : Word) : crcBit (c ^^^ d) = crcBit c ^^^ crcBit d := by
  have hpoly : (if (c ^^^ d).getLsbD 0 then (0xEDB88320 : Word) else 0) =
      (if c.getLsbD 0 then 0xEDB88320 else 0) ^^^ (if d.getLsbD 0 then 0xEDB88320 else 0) := by
    rw [BitVec.getLsbD_xor]
    cases c.getLsbD 0 <;> cases d.getLsbD 0 <;> rfl
  simp only [crcBit_eq_shift_xor, hpoly, BitVec.ushiftRight_xor_distrib]
  ac_rfl

theorem crcBits_xor (n : Nat) (c d : Word) : crcBits n (c ^^^ d) = crcBits n c ^^^ crcBits n d := by
  induction n generalizing c d with
  | zero => rfl
  | succ n ih => simp only [crcBits, crcBit_xor, ih]

/-- While the bits shifted out are 0 the update only shifts. -/
theorem crcBits_of_low_bits_zero {n : Nat} {c : Word} (h : ∀ i < n, c.getLsbD i = false) :
    crcBits n c = c >>> n := by
  induction n generalizing c with
  | zero => exact (BitVec.ushiftRight_zero c).symm
  | succ n ih =>
    have hbit : crcBit c = c >>> 1 := by
      rw [crcBit, h 0 n.succ_pos]
      rfl
    have hlow : ∀ i < n, (c >>> 1).getLsbD i = false := fun i hi => by
      rw [BitVec.getLsbD_ushiftRight, h (1 + i) (by omega)]
    rw [crcBits, hbit, ih hlow, ← BitVec.shiftRight_add, Nat.add_comm]

/-- A byte reaches the low 8 bits alone, which a shift by 8 drops. -/
theorem xor_byte_ushiftRight (x : Word) (b : Byte) : (x ^^^ b.setWidth 32) >>> 8 = x >>> 8 := by
  ext i hi
  simp

theorem crcStep_zero (b : Byte) : crcStep 0 b = crcBits 8 (b.setWidth 32) :=
  congrArg (crcBits 8) BitVec.zero_xor

/-- Split off the low byte: the bits above it are only shifted, and by linearity it adds its table entry. -/
theorem crcBits_eight_eq (x : Word) : crcBits 8 x = (x >>> 8) ^^^ crcStep 0 (x.setWidth 8) := by
  have hlow : ∀ i < 8, (x ^^^ (x.setWidth 8).setWidth 32).getLsbD i = false := fun i hi => by
    simp [hi, show i < 32 by omega]
  calc crcBits 8 x
    _ = crcBits 8 ((x ^^^ (x.setWidth 8).setWidth 32) ^^^ (x.setWidth 8).setWidth 32) := by
      rw [BitVec.xor_assoc, BitVec.xor_self, BitVec.xor_zero]
    _ = ((x ^^^ (x.setWidth 8).setWidth 32) >>> 8) ^^^ crcBits 8 ((x.setWidth 8).setWidth 32) := by
      rw [crcBits_xor, crcBits_of_low_bits_zero hlow]
    _ = (x >>> 8) ^^^ crcStep 0 (x.setWidth 8) := by
      rw [xor_byte_ushiftRight, crcStep_zero]

/-- Settles O27: the update splits at the low byte of `c ^^^ b`, and `b` does not reach above it. -/
theorem crcStepIsTheBitLoopAndTheTableForm : Obligations.CrcStepIsTheBitLoopAndTheTableForm := by
  intro c b
  have hmask (x : Word) : (x &&& 0xFF).setWidth 8 = x.setWidth 8 :=
    BitVec.setWidth_and.trans BitVec.and_allOnes
  refine ⟨crcBits_eq_iterate 8 _, ?_⟩
  rw [hmask, ← xor_byte_ushiftRight c b]
  exact crcBits_eight_eq _

/-- Settles O28: every bit of the update is linear, and so is the operand `c ^^^ b`. -/
theorem crcStepIsLinear : Obligations.CrcStepIsLinear := by
  intro c d a b
  have hoperand : (c ^^^ d) ^^^ (a ^^^ b).setWidth 32 = (c ^^^ a.setWidth 32) ^^^ (d ^^^ b.setWidth 32) := by
    rw [BitVec.setWidth_xor]
    ac_rfl
  simp only [crcStep, hoperand, crcBits_xor]

end Sys2Proof.Machine
end

section

namespace Sys2Proof.Machine

/-! ### The commands of the CRC unit (41_crc.md R161 to R166) -/

/-- The encoding rule of an opcode with a byte operand: RSV alone is reserved (30_encoding.md R102, R103). -/
theorem encodedWithByte_of_mem {op : Byte} {f : Byte → Instr} (hop : op ∈ byteOpcodes)
    (hf : ∀ b, commandOf op b = some (f b)) : EncodedWithByte f op := by
  intro w hw
  have hopcode : opField w = op := hw
  have hcommand : commandOf (opField w) (bField w) = some (f (bField w)) := hopcode ▸ hf _
  by_cases hrsv : rsvField w = 0
  · have hgood : ¬ ReservedNonzero w := by simp [ReservedNonzero, hrsv, hopcode, hop]
    exact (decode_of_not_reservedNonzero hcommand hgood).trans (if_pos hrsv).symm
  · exact (decode_of_reservedNonzero hcommand (.inl hrsv)).trans (if_neg hrsv).symm

/-- CRC_VALUE reads the register inverted (10_state.md R39). -/
theorem State.hostRead_crcValue (s : State) : s.hostRead 0x14 = s.crcState ^^^ 0xFFFFFFFF :=
  s.hostRead_offset .crcValue

/-- Settles O29: CRC.INIT's word is its encoding, and its rule presets CRC_STATE alone. -/
theorem crcInitPresetsTheRegister : Obligations.CrcInitPresetsTheRegister :=
  ⟨encodedByOneWord_encode (i := .crcInit) rfl, fun s =>
    ⟨s.setCrc crcPreset, rfl, rfl, (State.hostRead_crcValue _).trans BitVec.xor_self⟩⟩

/-- Settles O30: every byte is an operand of CRC.B, and its rule sets CRC_STATE alone. -/
theorem crcByteFeedsTheRegister : Obligations.CrcByteFeedsTheRegister :=
  ⟨encodedWithByte_of_mem (by decide) fun _ => rfl, fun _ _ => rfl⟩

/-- Settles O31: CRC.LD's word is its encoding, and its rule copies DATA into CRC_STATE alone. -/
theorem crcLoadCopiesData : Obligations.CrcLoadCopiesData :=
  ⟨encodedByOneWord_encode (i := .crcLd) rfl, fun _ => rfl⟩

/-! ### Feeding a sequence of bytes (41_crc.md R162) -/

theorem execAll_cons_of_next {i : Instr} {s t : State} (h : exec i s = .next t) (is : List Instr) :
    execAll (i :: is) s = execAll is t := by
  simp only [execAll, h]

/-- One CRC.B per byte folds the update over the bytes and sets CRC_STATE alone. -/
theorem execAll_map_crcB (bs : List Byte) (s : State) :
    execAll (bs.map .crcB) s = .next (s.setCrc (bs.foldl crcStep s.crcState)) := by
  induction bs generalizing s with
  | nil => rfl
  | cons b bs ih =>
    have hstep : exec (.crcB b) s = .next (s.setCrc (crcStep s.crcState b)) := rfl
    rw [List.map_cons, execAll_cons_of_next hstep, ih]
    rfl

/-- Settles O32: CRC.INIT presets the register, the bytes are folded into it, and CRC_VALUE reads it inverted. -/
theorem crcUnitComputesCrc32OfTheBytesFed : Obligations.CrcUnitComputesCrc32OfTheBytesFed := by
  refine ⟨fun bs s => ?fed, ?empty, ?iend⟩
  case fed =>
    have hinit : exec .crcInit s = .next (s.setCrc crcPreset) := rfl
    have hread := State.hostRead_crcValue (s.setCrc (bs.foldl crcStep crcPreset))
    exact ⟨_, (execAll_cons_of_next hinit _).trans (execAll_map_crcB bs _), rfl, hread, hread⟩
  case empty => decide
  case iend => simp [crc32, crcStep, crcBits, crcBit, crcPreset]

end Sys2Proof.Machine
end

section

namespace Sys2Proof.Machine

/-! ### The neighbours of a data byte (42_filter.md R197, R199) -/

/-- A written byte is what a read gives. -/
theorem Memory.lookup_eq_some_read {m : Memory} {i : Nat} (h : (m.lookup i).isSome = true) (u : Nat → Byte) :
    m.lookup i = some (m.read u i) := by
  obtain ⟨b, hb⟩ := Option.isSome_iff_exists.mp h
  rw [hb, Memory.read_of_lookup hb]

theorem FltUnit.left_of_lt {f : FltUnit} (h : f.col.toNat < f.bpp.toNat) (draw : Nat) : f.left draw = 0 :=
  if_neg (Nat.not_le.mpr h)

theorem FltUnit.up_of_firstRow {f : FltUnit} (h : f.hasPrior = false) (draw : Nat) : f.up draw = 0 :=
  if_neg (by simp [h])

theorem FltUnit.upperLeft_of_outside {f : FltUnit} (h : f.hasPrior = false ∨ f.col.toNat < f.bpp.toNat) (draw : Nat) :
    f.upperLeft draw = 0 :=
  if_neg fun ⟨hprior, hn⟩ => h.elim (by simp [hprior]) (Nat.not_lt.mpr hn)

theorem FltUnit.rawByte_toNat (draw : Nat) (f : FltUnit) (b : Byte) :
    (f.rawByte draw b).toNat = (b.toNat + predict f.ftype (f.left draw) (f.up draw) (f.upperLeft draw)) % 256 :=
  BitVec.toNat_ofNat _ _

section

variable {maxRow : Nat} {f : FltUnit} (h : f.Inv maxRow) (hst : f.st = .data) (draw : Nat)

include h

theorem FltUnit.Inv.lookup_prevByte (hprior : f.hasPrior = true) {j : Nat} (hj : j < f.rowLen.toNat) :
    f.prev.lookup j = some (f.prevByte draw j) :=
  Memory.lookup_eq_some_read (h.prev_written hprior j hj) _

include hst

/-- BPP is at least 1, so left stands before FLT_COL in CUR. -/
theorem FltUnit.Inv.lookup_left (hn : f.bpp.toNat ≤ f.col.toNat) :
    f.cur.lookup (f.col.toNat - f.bpp.toNat) = some (f.left draw) := by
  obtain ⟨hbpp, -⟩ := h.bpp_range (by simp [hst, FltSt.latched])
  rw [FltUnit.left, if_pos hn]
  exact Memory.lookup_eq_some_read (h.cur_written _ (by omega)) _

theorem FltUnit.Inv.lookup_up (hprior : f.hasPrior = true) : f.prev.lookup f.col.toNat = some (f.up draw) := by
  rw [FltUnit.up, if_pos hprior]
  exact h.lookup_prevByte draw hprior (h.col_lt hst)

theorem FltUnit.Inv.lookup_upperLeft (hprior : f.hasPrior = true) (hn : f.bpp.toNat ≤ f.col.toNat) :
    f.prev.lookup (f.col.toNat - f.bpp.toNat) = some (f.upperLeft draw) := by
  have hcol := h.col_lt hst
  rw [FltUnit.upperLeft, if_pos ⟨hprior, hn⟩]
  exact h.lookup_prevByte draw hprior (by omega)

/-- Inside a row FLT_COL counts without wrapping. -/
theorem FltUnit.Inv.col_succ_toNat : (f.col + 1).toNat = f.col.toNat + 1 := by
  have hcol := h.col_lt hst
  bv_omega

/-- A row to come leaves FLT_ROW room to count. -/
theorem FltUnit.Inv.row_succ_toNat : (f.row + 1).toNat = f.row.toNat + 1 := by
  have hrow := h.row_lt (.inr hst)
  bv_omega

theorem FltUnit.Inv.row_succ_eq_iff : f.row + 1 = f.lHeight ↔ f.row.toNat + 1 = f.lHeight.toNat := by
  rw [← h.row_succ_toNat hst]
  exact BitVec.toNat_inj.symm

end

/-- In DATA, under the invariant, FLT.B stores and emits the reconstructed byte (42_filter.md R197). -/
theorem State.Inv.exec_fltB_of_data {s : State} (h : s.Inv) (hst : s.flt.st = .data) (b : Byte) :
    Machine.exec (.fltB b) s = .next ((s.setFlt (s.flt.dataStep s.draw b)).emitFlt [.raw (s.flt.rawByte s.draw b)]) :=
  execFltB_of_data hst (h.flt.col_lt_maxRow hst) b

/-- After the row copy PREV holds CUR over the row, and beyond it what it held (42_filter.md R198). -/
theorem Memory.lookup_copy_read {m src : Memory} {n : Nat} (u : Nat → Byte)
    (h : ∀ j, j < n → (src.lookup j).isSome = true) (j : Nat) :
    (m.copy (src.read u) n).lookup j = if j < n then src.lookup j else m.lookup j := by
  rw [Memory.lookup_copy]
  split
  · next hj => exact (Memory.lookup_eq_some_read (h j hj) u).symm
  · rfl

/-- After the last byte of a row PREV is CUR over the row, which is then written in full (42_filter.md R198). -/
theorem FltUnit.Inv.lookup_prev_dataStep_last {maxRow : Nat} {f : FltUnit} (h : f.Inv maxRow)
    (hlast : f.col.toNat + 1 = f.rowLen.toNat) (draw : Nat) (b : Byte) (j : Nat) :
    (f.dataStep draw b).prev.lookup j =
      if j < f.rowLen.toNat then (f.cur.write f.col.toNat (f.rawByte draw b)).lookup j else f.prev.lookup j := by
  rw [FltUnit.dataStep_last hlast.not_lt]
  exact Memory.lookup_copy_read _ (fun j hj => h.cur_write_written _ (by omega)) j

/-- A data byte inside its row moves FLT_COL on and nothing else of the unit's position (42_filter.md R197). -/
theorem FltUnit.Inv.dataStep_inside {maxRow : Nat} {f : FltUnit} (h : f.Inv maxRow) (hst : f.st = .data)
    (hmid : f.col.toNat + 1 < f.rowLen.toNat) (draw : Nat) (b : Byte) :
    (f.dataStep draw b).col.toNat = f.col.toNat + 1 ∧ (f.dataStep draw b).st = .data ∧
      (f.dataStep draw b).row = f.row ∧ (f.dataStep draw b).hasPrior = f.hasPrior ∧
      (f.dataStep draw b).prev = f.prev := by
  rw [FltUnit.dataStep_mid hmid]
  exact ⟨h.col_succ_toNat hst, hst, rfl, rfl, rfl⟩

/-- The last byte of a row counts it, and the unit is DONE after the last row (42_filter.md R198). -/
theorem FltUnit.Inv.dataStep_atEnd {maxRow : Nat} {f : FltUnit} (h : f.Inv maxRow) (hst : f.st = .data)
    (hend : f.col.toNat + 1 = f.rowLen.toNat) (draw : Nat) (b : Byte) :
    (f.dataStep draw b).col = 0 ∧ (f.dataStep draw b).hasPrior = true ∧
      (f.dataStep draw b).row.toNat = f.row.toNat + 1 ∧
      (f.dataStep draw b).st = if f.row.toNat + 1 = f.lHeight.toNat then .done else .tag := by
  rw [FltUnit.dataStep_last hend.not_lt]
  exact ⟨rfl, rfl, h.row_succ_toNat hst, if_congr (h.row_succ_eq_iff hst) rfl rfl⟩

/-- Settles O36: the neighbours are what the unit reads at FLT_COL; the two branches are the byte inside a row and the
row's last. -/
theorem fltDataByteIsReconstructedFromItsNeighbours : Obligations.FltDataByteIsReconstructedFromItsNeighbours := by
  intro s b h hst
  have hunit := h.flt
  obtain ⟨hcfg, hwidth, hheight, hcode, hlen, hlHeight, hbpp, hftype, hlastByte, hcur⟩ := s.flt.dataStep_frame s.draw b
  refine ⟨s.flt.left s.draw, s.flt.up s.draw, s.flt.upperLeft s.draw, s.flt.rawByte s.draw b, _,
    hunit.lookup_left hst s.draw, fun hn => FltUnit.left_of_lt hn _, hunit.lookup_up hst s.draw,
    fun hp => FltUnit.up_of_firstRow hp _, hunit.lookup_upperLeft hst s.draw,
    fun ho => FltUnit.upperLeft_of_outside ho _, FltUnit.rawByte_toNat _ _ _, h.exec_fltB_of_data hst b, rfl, hlastByte,
    ?here, fun j hj => ?elsewhere, hcfg, hwidth, hheight, hcode, hlen, hlHeight, hbpp, hftype,
    fun hmid => hunit.dataStep_inside hst hmid s.draw b, fun hend => ?atEnd⟩
  case here => simp [hcur]
  case elsewhere => simpa [hcur] using Memory.lookup_write_of_ne s.flt.cur _ hj
  case atEnd =>
    obtain ⟨hcol, hprior, hrow, hnext⟩ := hunit.dataStep_atEnd hst hend s.draw b
    have hprev := hunit.lookup_prev_dataStep_last hend s.draw b
    refine ⟨hcol, hprior, hrow, hnext, fun j hj => ?_, fun j hj => (hprev j).trans (if_neg (Nat.not_lt.mpr hj))⟩
    exact (hprev j).trans (by simp [hj, hcur])

end Sys2Proof.Machine
end

section

namespace Sys2Proof.Machine

/-! ### The forward filter, byte by byte (42_filter.md R208) -/

/-- What the forward filter takes from byte `i` of the row: the predictor of the row's own bytes and the prior row's. -/
def rowPredict (t : FilterType) (bpp : Nat) (prior : Option (List Byte)) (raw : List Byte) (i : Nat) : Nat :=
  predict t (if bpp ≤ i then rowByteAt raw (i - bpp) else 0) (rowByteAt prior i)
    (if bpp ≤ i then rowByteAt prior (i - bpp) else 0)

theorem forwardFilter_eq_map (t : FilterType) (bpp : Nat) (prior : Option (List Byte)) (raw : List Byte) :
    forwardFilter t bpp prior raw =
      (List.range raw.length).map fun i => rowByteAt raw i - BitVec.ofNat 8 (rowPredict t bpp prior raw i) := rfl

theorem rowByteAt_append_left {raw : List Byte} {i : Nat} (h : i < raw.length) (rest : List Byte) :
    rowByteAt (some (raw ++ rest)) i = rowByteAt (some raw) i :=
  List.getD_append _ _ _ _ h

theorem rowByteAt_append_length (raw : List Byte) (x : Byte) : rowByteAt (some (raw ++ [x])) raw.length = x := by
  simp [rowByteAt]

section

variable (t : FilterType) {bpp : Nat} (hbpp : 1 ≤ bpp) (prior : Option (List Byte))

include hbpp

/-- The predictor looks only at bytes of the row before its own. -/
theorem rowPredict_append {raw : List Byte} {i : Nat} (hi : i ≤ raw.length) (rest : List Byte) :
    rowPredict t bpp prior (raw ++ rest) i = rowPredict t bpp prior raw i := by
  unfold rowPredict
  split
  · rw [rowByteAt_append_left (by omega)]
  · rfl

/-- A byte more in the row is a byte more filtered. -/
theorem forwardFilter_append_singleton (raw : List Byte) (x : Byte) :
    forwardFilter t bpp prior (raw ++ [x]) =
      forwardFilter t bpp prior raw ++ [x - BitVec.ofNat 8 (rowPredict t bpp prior raw raw.length)] := by
  have hinit : ∀ i ∈ List.range raw.length,
      rowByteAt (some (raw ++ [x])) i - BitVec.ofNat 8 (rowPredict t bpp prior (raw ++ [x]) i) =
        rowByteAt (some raw) i - BitVec.ofNat 8 (rowPredict t bpp prior raw i) := fun i hi => by
    have hlt := List.mem_range.mp hi
    rw [rowByteAt_append_left hlt, rowPredict_append t hbpp prior hlt.le]
  rw [forwardFilter_eq_map, forwardFilter_eq_map, List.length_append, List.length_singleton, List.range_succ,
    List.map_append, List.map_congr_left hinit, List.map_singleton, rowByteAt_append_length,
    rowPredict_append t hbpp prior le_rfl]

end

/-! ### A row under way (42_filter.md R196, R197) -/

/-- `prior` is the row before the one to come: none on the first row, else what PREV holds over the row. -/
def FltUnit.IsPrior (f : FltUnit) (prior : Option (List Byte)) : Prop :=
  (f.hasPrior = false → prior = none) ∧
    (f.hasPrior = true → ∃ p, prior = some p ∧ ∀ j, j < f.rowLen.toNat → f.prev.lookup j = p[j]?)

/-- From `f` in TAG the unit has come to `g`, inside a row of type `t` whose bytes so far are `raw`. -/
structure FltUnit.RowSoFar (f g : FltUnit) (t : FilterType) (raw : List Byte) : Prop where
  frame : g = { f with ftype := t, st := .data, col := g.col, last := g.last, cur := g.cur }
  col : g.col.toNat = raw.length
  cur : ∀ j, j < raw.length → g.cur.lookup j = raw[j]?

theorem filterTypeOf_bits_setWidth (t : FilterType) : filterTypeOf (t.bits.setWidth 8) = some t := by
  cases t <;> rfl

theorem FltUnit.rowSoFar_tagStep (f : FltUnit) (t : FilterType) : f.RowSoFar (f.tagStep (t.bits.setWidth 8)) t [] := by
  simp only [FltUnit.tagStep, filterTypeOf_bits_setWidth]
  exact ⟨rfl, rfl, by simp⟩

section

variable {f g : FltUnit} {t : FilterType} {raw : List Byte} (hrow : f.RowSoFar g t raw)

include hrow

/-- Storing a byte at FLT_COL puts it behind those of the row so far. -/
theorem FltUnit.RowSoFar.lookup_write (x : Byte) {j : Nat} (hj : j < (raw ++ [x]).length) :
    (g.cur.write g.col.toNat x).lookup j = (raw ++ [x])[j]? := by
  rw [Memory.lookup_write, hrow.col]
  split
  · next heq => simp [heq]
  · next hne =>
    have hlt : j < raw.length := by simp at hj; omega
    rw [hrow.cur j hlt, List.getElem?_append_left hlt]

theorem FltUnit.RowSoFar.st_eq : g.st = .data := congrArg FltUnit.st hrow.frame

theorem FltUnit.RowSoFar.ftype_eq : g.ftype = t := congrArg FltUnit.ftype hrow.frame

theorem FltUnit.RowSoFar.rowLen_eq : g.rowLen = f.rowLen := by rw [hrow.frame]

theorem FltUnit.RowSoFar.lHeight_eq : g.lHeight = f.lHeight := by rw [hrow.frame]

theorem FltUnit.RowSoFar.row_eq : g.row = f.row := by rw [hrow.frame]

theorem FltUnit.RowSoFar.bpp_eq : g.bpp = f.bpp := by rw [hrow.frame]

theorem FltUnit.RowSoFar.isPrior {prior : Option (List Byte)} (h : f.IsPrior prior) : g.IsPrior prior := by
  rw [hrow.frame]
  exact h

/-- A byte inside the row adds its reconstruction to the row so far. -/
theorem FltUnit.RowSoFar.dataStep (hmid : raw.length + 1 < f.rowLen.toNat) (draw : Nat) (b : Byte) :
    f.RowSoFar (g.dataStep draw b) t (raw ++ [g.rawByte draw b]) := by
  have hcol := hrow.col
  have hmid' : g.col.toNat + 1 < g.rowLen.toNat := by rw [hrow.rowLen_eq, hcol]; exact hmid
  rw [FltUnit.dataStep_mid hmid']
  refine ⟨?frame, ?col, fun j hj => hrow.lookup_write _ hj⟩
  case frame => rw [hrow.frame]
  case col =>
    rw [List.length_append, List.length_singleton]
    bv_omega

end

section

variable {maxRow : Nat} {f : FltUnit} (h : f.Inv maxRow) {prior : Option (List Byte)} (hprior : f.IsPrior prior)
  (draw : Nat)

include h hprior

theorem FltUnit.Inv.rowByteAt_prior {j : Nat} (hj : j < f.rowLen.toNat) :
    rowByteAt prior j = if f.hasPrior = true then f.prevByte draw j else 0 := by
  obtain ⟨hfirst, hlater⟩ := hprior
  split
  · next hp =>
    obtain ⟨p, rfl, hprev⟩ := hlater hp
    have hlookup := (hprev j hj).symm.trans (h.lookup_prevByte draw hp hj)
    simp [rowByteAt, hlookup]
  · next hp =>
    rw [hfirst (by simpa using hp)]
    rfl

/-- The unit predicts what the forward filter predicted. -/
theorem FltUnit.Inv.rowPredict_eq {e : FltUnit} {t : FilterType} {raw : List Byte} (hrow : e.RowSoFar f t raw) :
    rowPredict t f.bpp.toNat prior raw raw.length =
      predict f.ftype (f.left draw) (f.up draw) (f.upperLeft draw) := by
  have hst := hrow.st_eq
  have hcol := h.col_lt hst
  obtain ⟨hbpp, -⟩ := h.bpp_range (by simp [hst, FltSt.latched])
  have hup : rowByteAt prior raw.length = f.up draw := by
    rw [← hrow.col, h.rowByteAt_prior hprior draw hcol, FltUnit.up]
  rw [rowPredict, hup, hrow.ftype_eq, ← hrow.col]
  split
  · next hn =>
    have hleft : rowByteAt raw (f.col.toNat - f.bpp.toNat) = f.left draw := by
      have hlookup := (hrow.cur _ (by rw [← hrow.col]; omega)).symm.trans (h.lookup_left hst draw hn)
      simp [rowByteAt, hlookup]
    rw [hleft, h.rowByteAt_prior hprior draw (by omega)]
    simp only [FltUnit.upperLeft, hn, and_true]
  · next hn =>
    have hlt := Nat.not_le.mp hn
    rw [FltUnit.left_of_lt hlt, FltUnit.upperLeft_of_outside (.inr hlt)]

/-- What the forward filter took from a byte, the data step adds again (42_filter.md R203, R208). -/
theorem FltUnit.Inv.rawByte_sub_rowPredict {e : FltUnit} {t : FilterType} {raw : List Byte} (hrow : e.RowSoFar f t raw)
    (x : Byte) : f.rawByte draw (x - BitVec.ofNat 8 (rowPredict t f.bpp.toNat prior raw raw.length)) = x := by
  rw [FltUnit.rawByte, ← h.rowPredict_eq hprior draw hrow, BitVec.ofNat_add, BitVec.ofNat_toNat, BitVec.setWidth_eq,
    BitVec.sub_add_cancel]

end

/-! ### Feeding a row (42_filter.md R195) -/

theorem execAll_append_of_next {is : List Instr} {s t : State} (h : execAll is s = .next t) (js : List Instr) :
    execAll (is ++ js) s = execAll js t := by
  induction is generalizing s with
  | nil => cases h; rfl
  | cons i is ih =>
    cases hi : exec i s with
    | next u =>
      rw [execAll_cons_of_next hi] at h
      rw [List.cons_append, execAll_cons_of_next hi, ih h]
    | fault r => simp [execAll, hi] at h
    | refused r => simp [execAll, hi] at h

theorem execAll_singleton (i : Instr) (s : State) : execAll [i] s = exec i s := by
  cases h : exec i s <;> simp only [execAll, h]

/-- A run of commands keeps the invariant. -/
theorem State.Inv.execAll {is : List Instr} {s t : State} (h : s.Inv) (hrun : execAll is s = .next t) : t.Inv := by
  induction is generalizing s with
  | nil => cases hrun; exact h
  | cons i is ih =>
    cases hi : Machine.exec i s with
    | next u => exact ih (h.exec hi) ((execAll_cons_of_next hi is).symm.trans hrun)
    | fault r => simp [Machine.execAll, hi] at hrun
    | refused r => simp [Machine.execAll, hi] at hrun

/-- The commands that feed a row: its tag and its filtered bytes. -/
def rowCommands (t : FilterType) (bpp : Nat) (prior : Option (List Byte)) (raw : List Byte) : List Instr :=
  .fltB (t.bits.setWidth 8) :: (forwardFilter t bpp prior raw).map .fltB

theorem rowCommands_append_singleton (t : FilterType) {bpp : Nat} (hbpp : 1 ≤ bpp) (prior : Option (List Byte))
    (raw : List Byte) (x : Byte) :
    rowCommands t bpp prior (raw ++ [x]) =
      rowCommands t bpp prior raw ++ [.fltB (x - BitVec.ofNat 8 (rowPredict t bpp prior raw raw.length))] := by
  simp only [rowCommands, forwardFilter_append_singleton t hbpp, List.map_append, List.map_singleton, List.cons_append]

/-- `s` with its unit at `g`, after it has emitted the bytes `raw`. -/
def State.afterRow (s : State) (g : FltUnit) (raw : List Byte) : State := (s.setFlt g).emitFlt (raw.map .raw)

@[simp] theorem State.afterRow_flt (s : State) (g : FltUnit) (raw : List Byte) : (s.afterRow g raw).flt = g := rfl

@[simp] theorem State.afterRow_draw (s : State) (g : FltUnit) (raw : List Byte) : (s.afterRow g raw).draw = s.draw :=
  rfl

theorem State.afterRow_append_singleton (s : State) (f g : FltUnit) (raw : List Byte) (x : Byte) :
    ((s.afterRow f raw).setFlt g).emitFlt [.raw x] = s.afterRow g (raw ++ [x]) := by
  simp [State.afterRow, State.setFlt, State.emitFlt]

section

variable {s : State} (h : s.Inv) (hst : s.flt.st = .tag) (t : FilterType) {prior : Option (List Byte)}
  (hprior : s.flt.IsPrior prior)

include h hst hprior

/-- One more byte of the row: if the bytes so far have brought the unit to `g`, the next filtered byte is reconstructed
and emitted. -/
theorem State.Inv.execAll_rowCommands_append_singleton {g : FltUnit} {raw : List Byte}
    (hrun : Machine.execAll (rowCommands t s.flt.bpp.toNat prior raw) s = .next (s.afterRow g raw))
    (hrow : s.flt.RowSoFar g t raw) (x : Byte) :
    ∃ b, g.rawByte s.draw b = x ∧
      Machine.execAll (rowCommands t s.flt.bpp.toNat prior (raw ++ [x])) s =
        .next (s.afterRow (g.dataStep s.draw b) (raw ++ [x])) := by
  have hmid : (s.afterRow g raw).Inv := h.execAll hrun
  obtain ⟨hbpp, -⟩ := h.flt.bpp_range (by simp [hst, FltSt.latched])
  have hraw := hmid.flt.rawByte_sub_rowPredict (hrow.isPrior hprior) s.draw hrow x
  simp only [State.afterRow_flt, hrow.bpp_eq] at hraw
  refine ⟨_, hraw, ?_⟩
  rw [rowCommands_append_singleton t hbpp, execAll_append_of_next hrun, execAll_singleton,
    hmid.exec_fltB_of_data hrow.st_eq]
  simp only [State.afterRow_flt, State.afterRow_draw, hraw, State.afterRow_append_singleton]

/-- The tag and the first bytes of a row bring the unit inside it. -/
theorem State.Inv.execAll_rowCommands_of_lt {raw : List Byte} (hlen : raw.length < s.flt.rowLen.toNat) :
    ∃ g, Machine.execAll (rowCommands t s.flt.bpp.toNat prior raw) s = .next (s.afterRow g raw) ∧
      s.flt.RowSoFar g t raw := by
  induction raw using List.reverseRecOn with
  | nil =>
    refine ⟨s.flt.tagStep (t.bits.setWidth 8), ?_, s.flt.rowSoFar_tagStep t⟩
    exact (execAll_singleton _ s).trans ((execFltB_of_tag hst _).trans (by simp [State.afterRow]))
  | append_singleton raw x ih =>
    rw [List.length_append, List.length_singleton] at hlen
    obtain ⟨g, hrun, hrow⟩ := ih (by omega)
    obtain ⟨b, hb, hrun'⟩ := h.execAll_rowCommands_append_singleton hst t hprior hrun hrow x
    exact ⟨_, hrun', hb ▸ hrow.dataStep hlen s.draw b⟩

end

/-- The unit `g` has completed the row `raw` that `f` in TAG began (42_filter.md R198). -/
structure FltUnit.RowDone (f g : FltUnit) (raw : List Byte) : Prop where
  hasPrior : g.hasPrior = true
  prev : ∀ j, j < f.rowLen.toNat → g.prev.lookup j = raw[j]?
  row : g.row.toNat = f.row.toNat + 1
  st : g.st = if f.row.toNat + 1 = f.lHeight.toNat then .done else .tag
  rowLen : g.rowLen = f.rowLen
  lHeight : g.lHeight = f.lHeight

/-- The last byte of a row completes it. -/
theorem FltUnit.RowSoFar.rowDone_dataStep {f g : FltUnit} {t : FilterType} {raw : List Byte}
    (hrow : f.RowSoFar g t raw) {maxRow : Nat} (hg : g.Inv maxRow) (hend : raw.length + 1 = f.rowLen.toNat) (draw : Nat)
    (b : Byte) : f.RowDone (g.dataStep draw b) (raw ++ [g.rawByte draw b]) := by
  have hend' : g.col.toNat + 1 = g.rowLen.toNat := by rw [hrow.rowLen_eq, hrow.col]; exact hend
  obtain ⟨-, -, -, -, hlen, hlHeight, -⟩ := g.dataStep_frame draw b
  obtain ⟨-, hprior, hcount, hst⟩ := hg.dataStep_atEnd hrow.st_eq hend' draw b
  rw [hrow.row_eq] at hcount hst
  rw [hrow.lHeight_eq] at hst hlHeight
  rw [hrow.rowLen_eq] at hlen
  refine ⟨hprior, fun j hj => ?_, hcount, hst, hlen, hlHeight⟩
  rw [hg.lookup_prev_dataStep_last hend' draw b, hrow.rowLen_eq, if_pos hj, hrow.lookup_write _ (by simp; omega)]

/-- A whole row: its tag and its filtered bytes emit its bytes and complete it. -/
theorem State.Inv.execAll_rowCommands {s : State} (h : s.Inv) (hst : s.flt.st = .tag) (t : FilterType)
    {prior : Option (List Byte)} (hprior : s.flt.IsPrior prior) {raw : List Byte}
    (hlen : raw.length = s.flt.rowLen.toNat) :
    ∃ g, Machine.execAll (rowCommands t s.flt.bpp.toNat prior raw) s = .next (s.afterRow g raw) ∧
      s.flt.RowDone g raw := by
  have hpos := h.flt.rowLen_pos (by simp [hst, FltSt.latched])
  obtain rfl | ⟨init, x, rfl⟩ := raw.eq_nil_or_concat'
  · rw [← hlen] at hpos
    cases hpos
  · rw [List.length_append, List.length_singleton] at hlen
    obtain ⟨g, hrun, hrow⟩ := h.execAll_rowCommands_of_lt hst t hprior (raw := init) (by omega)
    obtain ⟨b, hb, hrun'⟩ := h.execAll_rowCommands_append_singleton hst t hprior hrun hrow x
    exact ⟨_, hrun', hb ▸ hrow.rowDone_dataStep (h.execAll hrun).flt hlen s.draw b⟩

/-- Settles O41: by induction on the row from its end, each filtered byte is reconstructed from the bytes before it; the
last one completes the row. -/
theorem fltInvertsTheForwardFilterOnARow : Obligations.FltInvertsTheForwardFilterOnARow := by
  intro s t prior raw h hst hlen hfirst hlater
  obtain ⟨g, hrun, hdone⟩ := h.execAll_rowCommands hst t ⟨hfirst, hlater⟩ hlen
  exact ⟨_, hrun, rfl, hdone.hasPrior, hdone.prev, hdone.row, hdone.st⟩

end Sys2Proof.Machine
end

section

namespace Sys2Proof.Machine

/-! ### A whole image (42_filter.md R207) -/

/-- Under the invariant there is always a prior row to speak of: none, or the bytes PREV holds over the row. -/
theorem FltUnit.Inv.exists_isPrior {maxRow : Nat} {f : FltUnit} (h : f.Inv maxRow) : ∃ prior, f.IsPrior prior := by
  cases hp : f.hasPrior with
  | false => exact ⟨none, fun _ => rfl, by simp [hp]⟩
  | true =>
    refine ⟨some ((List.range f.rowLen.toNat).map (f.prevByte 0)), by simp [hp], fun _ => ⟨_, rfl, fun j hj => ?_⟩⟩
    rw [h.lookup_prevByte 0 hp hj]
    simp [hj]

/-- The forward filter is onto: any bytes are the filtered bytes of some row. -/
theorem exists_forwardFilter_eq (t : FilterType) {bpp : Nat} (hbpp : 1 ≤ bpp) (prior : Option (List Byte))
    (bs : List Byte) : ∃ raw, raw.length = bs.length ∧ forwardFilter t bpp prior raw = bs := by
  induction bs using List.reverseRecOn with
  | nil => exact ⟨[], rfl, rfl⟩
  | append_singleton bs b ih =>
    obtain ⟨raw, hlen, hraw⟩ := ih
    refine ⟨raw ++ [b + BitVec.ofNat 8 (rowPredict t bpp prior raw raw.length)], by simp [hlen], ?_⟩
    rw [forwardFilter_append_singleton t hbpp, hraw, BitVec.add_sub_cancel]

theorem exists_filterType_of_tag {b : Byte} (h : b.toNat ≤ 4) : ∃ t : FilterType, t.bits.setWidth 8 = b := by
  cases ht : filterTypeOf b with
  | none => exact absurd (filterTypeOf_eq_none.mp ht) (Nat.not_lt.mpr h)
  | some t =>
    obtain ⟨-, hbits⟩ := filterTypeOf_bits ht
    refine ⟨t, BitVec.eq_of_toNat_eq ?_⟩
    rw [BitVec.toNat_setWidth_of_le (by decide), hbits]

/-- Any legal tag and any row of bytes emit a row and complete it. -/
theorem State.Inv.execAll_anyRow {s : State} (h : s.Inv) (hst : s.flt.st = .tag) {tag : Byte} (htag : tag.toNat ≤ 4)
    {bs : List Byte} (hlen : bs.length = s.flt.rowLen.toNat) :
    ∃ g raw, Machine.execAll ((tag :: bs).map .fltB) s = .next (s.afterRow g raw) ∧
      raw.length = s.flt.rowLen.toNat ∧ s.flt.RowDone g raw := by
  obtain ⟨hbpp, -⟩ := h.flt.bpp_range (by simp [hst, FltSt.latched])
  obtain ⟨t, rfl⟩ := exists_filterType_of_tag htag
  obtain ⟨prior, hprior⟩ := h.flt.exists_isPrior
  obtain ⟨raw, hraw, rfl⟩ := exists_forwardFilter_eq t hbpp prior bs
  rw [← hraw] at hlen
  obtain ⟨g, hrun, hdone⟩ := h.execAll_rowCommands hst t hprior hlen
  exact ⟨g, raw, hrun, hlen, hdone⟩

/-- The bytes of an image's rows, in the order they are fed: each row's tag before its bytes. -/
def imageBytes (rows : List (Byte × List Byte)) : List Byte := rows.flatMap fun r => r.1 :: r.2

theorem imageBytes_cons (tag : Byte) (bs : List Byte) (rows : List (Byte × List Byte)) :
    imageBytes ((tag, bs) :: rows) = (tag :: bs) ++ imageBytes rows := rfl

theorem length_imageBytes {rows : List (Byte × List Byte)} {n : Nat} (h : ∀ r ∈ rows, r.2.length = n) :
    (imageBytes rows).length = rows.length * (1 + n) := by
  induction rows with
  | nil => simp [imageBytes]
  | cons r rows ih =>
    obtain ⟨hr, hrows⟩ := List.forall_mem_cons.mp h
    rw [imageBytes_cons, List.length_append, ih hrows, List.length_cons, hr, List.length_cons]
    ring

/-- The rows an image still lacks end it: the unit is in TAG while rows are to come, in DONE once all have. -/
theorem State.Inv.execAll_rows {rows : List (Byte × List Byte)} {s : State} (h : s.Inv)
    (hst : s.flt.st = if s.flt.row.toNat = s.flt.lHeight.toNat then .done else .tag)
    (hcount : s.flt.row.toNat + rows.length = s.flt.lHeight.toNat)
    (hrows : ∀ r ∈ rows, r.1.toNat ≤ 4 ∧ r.2.length = s.flt.rowLen.toNat) :
    ∃ t out, Machine.execAll ((imageBytes rows).map .fltB) s = .next t ∧ t.fltOut = s.fltOut ++ out ∧
      out.length = rows.length * s.flt.rowLen.toNat ∧ t.flt.st = .done := by
  induction rows generalizing s with
  | nil =>
    rw [List.length_nil, Nat.add_zero] at hcount
    rw [if_pos hcount] at hst
    exact ⟨s, [], rfl, by simp, by simp, hst⟩
  | cons r rows ih =>
    obtain ⟨⟨htag, hlen⟩, hrest⟩ := List.forall_mem_cons.mp hrows
    rw [List.length_cons] at hcount
    rw [if_neg (by omega)] at hst
    obtain ⟨g, raw, hrun, hraw, hdone⟩ := h.execAll_anyRow hst htag hlen
    obtain ⟨t, out, hrun', hout, houtLen, hend⟩ := ih (h.execAll hrun)
      (by rw [State.afterRow_flt, hdone.st, hdone.row, hdone.lHeight])
      (by rw [State.afterRow_flt, hdone.row, hdone.lHeight]; omega)
      (by rw [State.afterRow_flt, hdone.rowLen]; exact hrest)
    refine ⟨t, raw.map .raw ++ out, ?_, ?_, ?_, hend⟩
    · rw [imageBytes_cons, List.map_append, execAll_append_of_next hrun, hrun']
    · rw [hout, ← List.append_assoc]
      rfl
    · rw [List.length_append, List.length_map, hraw, houtLen, State.afterRow_flt, hdone.rowLen, List.length_cons]
      ring

/-- Settles O42: by induction on the rows still to come; each row's bytes are the filtered bytes of some row, so they
complete it. -/
theorem fltCompleteImageEndsInDone : Obligations.FltCompleteImageEndsInDone := by
  intro s rows h hst hrow hheight hrows
  have hpos := h.flt.lHeight_pos (by simp [hst, FltSt.latched])
  have hzero : s.flt.row.toNat = 0 := by simp [hrow]
  obtain ⟨t, out, hrun, hout, hlen, hend⟩ := h.execAll_rows (rows := rows)
    (by rw [hst, if_neg (by omega)]) (by omega) hrows
  rw [hheight] at hlen
  exact ⟨t, out, hrun, hheight ▸ length_imageBytes fun r hr => (hrows r hr).2, hout, hlen, hend⟩

end Sys2Proof.Machine
end

section

namespace Sys2Proof.Machine

/-! ### The predictors (42_filter.md R200 to R202) -/

theorem predict_le (t : FilterType) (left up upperLeft : Byte) : predict t left up upperLeft ≤ 255 := by
  have hleft := left.isLt
  have hup := up.isLt
  have hpaeth := (paeth left up upperLeft).isLt
  cases t <;> simp only [predict] <;> omega

/-- Settles O37: each predictor is its row of the table, and the reconstructed byte is a sum in 8 bits. -/
theorem predictorOfEachFilterType : Obligations.PredictorOfEachFilterType :=
  ⟨fun left up ul => ⟨rfl, rfl, rfl, rfl, rfl, fun t => predict_le t left up ul, rfl⟩, FltUnit.rawByte_toNat⟩

/-- The distance of a byte from a + b - c, over the integers (42_filter.md R201). -/
def paethDist (a b c x : Byte) : Int := |(a.toNat : Int) + b.toNat - c.toNat - x.toNat|

/-- The tests of the rule, in their order. -/
theorem paeth_eq (a b c : Byte) :
    paeth a b c =
      if paethDist a b c a ≤ paethDist a b c b ∧ paethDist a b c a ≤ paethDist a b c c then a
      else if paethDist a b c b ≤ paethDist a b c c then b else c := by
  simp only [paeth, paethDist, Int.abs_eq_natAbs, Int.ofNat_le]

/-- Whichever of the three the tests pick is nearest. -/
theorem paethDist_paeth_le (a b c : Byte) :
    paethDist a b c (paeth a b c) ≤ paethDist a b c a ∧ paethDist a b c (paeth a b c) ≤ paethDist a b c b ∧
      paethDist a b c (paeth a b c) ≤ paethDist a b c c := by
  rw [paeth_eq]
  split
  · next ha => exact ⟨le_rfl, ha⟩
  · next ha =>
    split
    · next hb => exact ⟨by omega, le_rfl, hb⟩
    · next hb => exact ⟨by omega, by omega, le_rfl⟩

/-- Settles O38: the tests are the rule's, and bytes bound every distance. -/
theorem paethPicksTheNearestTiesToAThenB : Obligations.PaethPicksTheNearestTiesToAThenB := by
  intro a b c p dist
  have ha := a.isLt
  have hb := b.isLt
  have hc := c.isLt
  obtain ⟨hna, hnb, hnc⟩ := paethDist_paeth_le a b c
  refine ⟨fun h => (paeth_eq a b c).trans (if_pos h),
    fun h hbc => (paeth_eq a b c).trans ((if_neg h).trans (if_pos hbc)),
    fun h hbc => (paeth_eq a b c).trans ((if_neg h).trans (if_neg hbc)), hna, hnb, hnc,
    by omega, by omega, abs_le.mpr ⟨by omega, by omega⟩, abs_le.mpr ⟨by omega, by omega⟩,
    abs_le.mpr ⟨by omega, by omega⟩, by decide, by decide⟩

end Sys2Proof.Machine
end

section

namespace Sys2Proof.Machine

/-! ### FLT.B outside a row (42_filter.md R194 to R196, R204, R205) -/

/-- Settles O34: each of the three states has its own rule. -/
theorem fltByteOutsideAnImage : Obligations.FltByteOutsideAnImage := by
  intro s b
  refine ⟨fun hst => ?idle, fun hst => execFltB_of_err hst b, fun hst => execFltB_of_done hst b⟩
  case idle => exact (execFltB_of_idle hst b).trans (congrArg Host.Outcome.next (s.raiseCmd_eq _))

/-- Settles O35: the tag names a filter type exactly when it is at most 4. -/
theorem fltTagByteSelectsTheFilterOrErrs : Obligations.FltTagByteSelectsTheFilterOrErrs := by
  intro s b hst
  have hexec : exec (.fltB b) s = .next (s.setFlt (s.flt.tagStep b)) := execFltB_of_tag hst b
  obtain ⟨hgt, heq⟩ | ⟨t, hle, hbits, heq⟩ := s.flt.tagStep_cases b <;> rw [heq] at hexec
  · exact ⟨fun h => absurd h (Nat.not_le.mpr hgt), fun _ => hexec⟩
  · exact ⟨fun _ => ⟨t, hbits, hexec⟩, fun h => absurd hle (Nat.not_le.mpr h)⟩

/-- The unit with other values in its configuration registers. -/
def FltUnit.withConfig (f : FltUnit) (cfg : BitVec 16) (w h : Word) : FltUnit :=
  { f with cfg := cfg, width := w, height := h }

theorem FltUnit.tagStep_withConfig (f : FltUnit) (cfg : BitVec 16) (w h : Word) (b : Byte) :
    (f.withConfig cfg w h).tagStep b = (f.tagStep b).withConfig cfg w h := by
  unfold FltUnit.tagStep
  split <;> rfl

theorem FltUnit.dataStep_withConfig (f : FltUnit) (cfg : BitVec 16) (w h : Word) (draw : Nat) (b : Byte) :
    (f.withConfig cfg w h).dataStep draw b = (f.dataStep draw b).withConfig cfg w h := by
  by_cases hmid : f.col.toNat + 1 < f.rowLen.toNat
  · rw [FltUnit.dataStep_mid hmid, FltUnit.dataStep_mid (f := f.withConfig cfg w h) hmid]
    rfl
  · rw [FltUnit.dataStep_last hmid, FltUnit.dataStep_last (f := f.withConfig cfg w h) hmid]
    rfl

/-- The state with other values in the configuration registers of FLT. -/
def State.withFltConfig (s : State) (cfg : BitVec 16) (w h : Word) : State := s.setFlt (s.flt.withConfig cfg w h)

/-- FLT.B commutes with a write to the configuration registers (42_filter.md R194). -/
theorem execFltB_withFltConfig {s t : State} {b : Byte} (hexec : execFltB b s = .next t) (cfg : BitVec 16)
    (w h : Word) :
    execFltB b (s.withFltConfig cfg w h) = .next (t.withFltConfig cfg w h) := by
  let r : State := s.withFltConfig cfg w h
  obtain ⟨hst, rfl⟩ | ⟨hst, rfl⟩ | ⟨hst, rfl⟩ | ⟨hst, rfl⟩ | ⟨hst, hcol, rfl⟩ := execFltB_cases hexec
  · rw [State.raiseCmd_eq]
    exact (execFltB_of_idle (s := r) hst b).trans (congrArg Host.Outcome.next (r.raiseCmd_eq _))
  · exact execFltB_of_err (s := r) hst b
  · exact execFltB_of_done (s := r) hst b
  · refine (execFltB_of_tag (s := r) hst b).trans (congrArg Host.Outcome.next ?_)
    exact congrArg r.setFlt (s.flt.tagStep_withConfig cfg w h b)
  · refine (execFltB_of_data (s := r) hst hcol b).trans (congrArg Host.Outcome.next ?_)
    exact congrArg (fun f => (r.setFlt f).emitFlt _) (s.flt.dataStep_withConfig cfg w h s.draw b)

/-- Settles O39: in each state of the unit FLT.B reads and writes other fields than the configuration registers. -/
theorem fltBytesReadOnlyTheLatchedValues : Obligations.FltBytesReadOnlyTheLatchedValues := by
  intro s t b cfg w h hexec
  obtain ⟨-, hconfig, -⟩ := execFltB_sameConfig hexec
  exact ⟨execFltB_withFltConfig hexec cfg w h, hconfig⟩

end Sys2Proof.Machine
end

section

namespace Sys2Proof.Machine

/-! ### FLT.START's checks (42_filter.md R191 to R193) -/

/-- The colorTypes with a channelCount (42_filter.md R191). -/
def LegalColorType (ct : Byte) : Prop := ct = 0 ∨ ct = 2 ∨ ct = 4 ∨ ct = 6

/-- The channelCount of a legal colorType. -/
def legalChannelCount (ct : Byte) : Nat := if ct = 0 then 1 else if ct = 4 then 2 else if ct = 2 then 3 else 4

theorem channelCount_of_legal {ct : Byte} (h : LegalColorType ct) : channelCount ct = some (legalChannelCount ct) := by
  obtain rfl | rfl | rfl | rfl := h <;> rfl

theorem channelCount_of_not_legal {ct : Byte} (h : ¬ LegalColorType ct) : channelCount ct = none := by
  simp only [LegalColorType, not_or] at h
  obtain ⟨h0, h2, h4, h6⟩ := h
  rw [channelCount, if_neg h0, if_neg h4, if_neg h2, if_neg h6]

/-- The unit that FLT.START leaves when every check passes (42_filter.md R192). -/
def FltUnit.latch (f : FltUnit) : FltUnit :=
  { f.cleared with
    bpp := BitVec.ofNat 3 (legalChannelCount f.ct)
    rowLen := BitVec.ofNat 32 (f.width.toNat * legalChannelCount f.ct)
    lHeight := f.height
    st := .tag }

section

variable {maxRow : Nat} {f : FltUnit}

theorem FltUnit.start_of_bd_ne (hbd : f.bd ≠ 8) : f.start maxRow = f.cleared.raise .bitDepth := if_pos hbd

variable (hbd : f.bd = 8)

include hbd

theorem FltUnit.start_of_not_legalColorType (hct : ¬ LegalColorType f.ct) :
    f.start maxRow = f.cleared.raise .colorType := by
  simp only [FltUnit.start, if_neg (not_not.mpr hbd), channelCount_of_not_legal hct]

variable (hct : LegalColorType f.ct)

include hct

/-- With a legal bit depth and colorType the dimension and the row length decide. -/
theorem FltUnit.start_of_legalColorType :
    f.start maxRow =
      if f.width = 0 ∨ f.height = 0 then f.cleared.raise .dimension
      else if maxRow < f.width.toNat * legalChannelCount f.ct then f.cleared.raise .rowSize
      else f.latch := by
  simp only [FltUnit.start, if_neg (not_not.mpr hbd), channelCount_of_legal hct]
  rfl

theorem FltUnit.start_of_dimension_zero (hdim : f.width = 0 ∨ f.height = 0) :
    f.start maxRow = f.cleared.raise .dimension :=
  (FltUnit.start_of_legalColorType hbd hct).trans (if_pos hdim)

variable (hw : f.width ≠ 0) (hh : f.height ≠ 0)

include hw hh

theorem FltUnit.start_of_row_too_long (hlen : maxRow < f.width.toNat * legalChannelCount f.ct) :
    f.start maxRow = f.cleared.raise .rowSize := by
  rw [FltUnit.start_of_legalColorType hbd hct, if_neg (not_or.mpr ⟨hw, hh⟩), if_pos hlen]

theorem FltUnit.start_of_legal (hlen : f.width.toNat * legalChannelCount f.ct ≤ maxRow) : f.start maxRow = f.latch := by
  rw [FltUnit.start_of_legalColorType hbd hct, if_neg (not_or.mpr ⟨hw, hh⟩), if_neg (Nat.not_lt.mpr hlen)]

end

/-- What FLT.START does to the positions and flags, and that it latches nothing when it fails (42_filter.md R192). -/
theorem FltUnit.start_clears (maxRow : Nat) (f : FltUnit) :
    (f.start maxRow).row = 0 ∧ (f.start maxRow).col = 0 ∧ (f.start maxRow).hasPrior = false ∧
      (f.start maxRow).ftype = .none ∧ (f.start maxRow).last = 0 ∧
      ((f.start maxRow).st = .err →
        (f.start maxRow).rowLen = 0 ∧ (f.start maxRow).lHeight = 0 ∧ (f.start maxRow).bpp = 0) := by
  obtain ⟨c, -, h⟩ | ⟨n, -, -, -, -, h⟩ := f.start_cases maxRow <;> rw [h] <;> simp

/-- Settles O33: what every start clears, then one case per check and one for a configuration that passes all four. -/
theorem fltStartChecksInOrderAndLatches : Obligations.FltStartChecksInOrderAndLatches := by
  refine ⟨encodedByOneWord_encode (i := .fltStart) rfl, fun s => ?_⟩
  intro bd ct legal n
  obtain ⟨hcfg, hwidth, hheight⟩ := s.flt.start_sameConfig s.params.maxRow.val
  obtain ⟨hrow, hcol, hprior, hftype, hlast, hfail⟩ := s.flt.start_clears s.params.maxRow.val
  refine ⟨_, rfl, rfl, hcfg, hwidth, hheight, hrow, hcol, hprior, hftype, hlast, hfail, ?bitDepth, ?colorType,
    ?dimension, ?rowSize, ?latched⟩ <;> simp only [State.redraw_flt, State.setFlt_flt]
  case bitDepth =>
    intro hbd
    rw [FltUnit.start_of_bd_ne hbd]
    exact ⟨rfl, rfl⟩
  case colorType =>
    intro hbd hlegal
    rw [FltUnit.start_of_not_legalColorType hbd hlegal]
    exact ⟨rfl, rfl⟩
  case dimension =>
    intro hbd hlegal hdim
    rw [FltUnit.start_of_dimension_zero hbd hlegal hdim]
    exact ⟨rfl, rfl⟩
  case rowSize =>
    intro hbd hlegal hw hh hlen
    rw [FltUnit.start_of_row_too_long hbd hlegal hw hh hlen]
    exact ⟨rfl, rfl⟩
  case latched =>
    intro hbd hlegal hw hh hlen
    have hmax := s.params.maxRow.isLt
    rw [FltUnit.start_of_legal hbd hlegal hw hh hlen]
    refine ⟨rfl, rfl, channelCount_toNat (channelCount_of_legal hlegal), ?_, rfl⟩
    exact (BitVec.toNat_ofNat _ _).trans (Nat.mod_eq_of_lt (Nat.lt_of_le_of_lt hlen hmax))

end Sys2Proof.Machine
end

section

namespace Sys2Proof.Machine

/-! ### The transition table of the FLT unit (42_filter.md R190) -/

/-- A configuration that passes the four checks of 42_filter.md R192. -/
def FltUnit.LegalConfig (maxRow : Nat) (f : FltUnit) : Prop :=
  f.bd = 8 ∧ LegalColorType f.ct ∧ f.width ≠ 0 ∧ f.height ≠ 0 ∧ f.width.toNat * legalChannelCount f.ct ≤ maxRow

/-- FLT.START enters TAG on a legal configuration and ERR on any other. -/
theorem FltUnit.start_st (maxRow : Nat) (f : FltUnit) :
    (f.start maxRow).st = .tag ∧ f.LegalConfig maxRow ∨ (f.start maxRow).st = .err ∧ ¬ f.LegalConfig maxRow := by
  by_cases hbd : f.bd = 8
  · by_cases hct : LegalColorType f.ct
    · rw [FltUnit.start_of_legalColorType hbd hct]
      split
      · next hdim => exact .inr ⟨rfl, fun ⟨_, _, hw, hh, _⟩ => hdim.elim hw hh⟩
      · next hdim =>
        obtain ⟨hw, hh⟩ := not_or.mp hdim
        split
        · next hlen => exact .inr ⟨rfl, fun ⟨_, _, _, _, hle⟩ => Nat.not_lt.mpr hle hlen⟩
        · next hlen => exact .inl ⟨rfl, hbd, hct, hw, hh, Nat.not_lt.mp hlen⟩
    · rw [FltUnit.start_of_not_legalColorType hbd hct]
      exact .inr ⟨rfl, fun ⟨_, hlegal, _⟩ => hct hlegal⟩
  · rw [FltUnit.start_of_bd_ne hbd]
    exact .inr ⟨rfl, fun ⟨h8, _⟩ => hbd h8⟩

theorem execFrmB_flt {b : Byte} {s t : State} (h : execFrmB b s = .next t) : t.flt = s.flt := by
  by_cases hst : s.frm.st = .idle
  · rw [execFrmB_frame_of_idle hst h]
  · rw [execFrmB_frame hst h]

theorem execFrmEos_flt {s t : State} (h : execFrmEos s = .next t) : t.flt = s.flt := by
  by_cases hst : s.frm.st = .idle
  · rw [execFrmEos_frame_of_idle hst h]
  · rw [execFrmEos_frame hst h]

/-- No command but FLT.START, FLT.B and SRST touches the FLT unit (40_control.md R131). -/
theorem exec_flt_eq {i : Instr} {s t : State} (hsrst : i ≠ .srst) (hstart : i ≠ .fltStart) (hb : ∀ b, i ≠ .fltB b)
    (h : exec i s = .next t) : t.flt = s.flt := by
  cases i with
  | srst => exact absurd rfl hsrst
  | fltStart => exact absurd rfl hstart
  | fltB b => exact absurd rfl (hb b)
  | frmB b => exact execFrmB_flt h
  | frmEos => exact execFrmEos_flt h
  | nop | clrerr | crcInit | crcB _ | crcLd | frmStart => cases h; rfl

/-- The edges out of DATA: only the last byte of a row takes one. -/
theorem FltUnit.Inv.dataStep_st {maxRow : Nat} {f : FltUnit} (h : f.Inv maxRow) (hst : f.st = .data) (draw : Nat)
    (b : Byte) (hne : (f.dataStep draw b).st ≠ f.st) :
    f.col.toNat + 1 = f.rowLen.toNat ∧
      ((f.dataStep draw b).st = .tag ∧ f.row.toNat + 1 ≠ f.lHeight.toNat ∨
        (f.dataStep draw b).st = .done ∧ f.row.toNat + 1 = f.lHeight.toNat) := by
  have hcol := h.col_lt hst
  by_cases hmid : f.col.toNat + 1 < f.rowLen.toNat
  · obtain ⟨-, hdata, -⟩ := h.dataStep_inside hst hmid draw b
    exact absurd (hdata.trans hst.symm) hne
  · have hend : f.col.toNat + 1 = f.rowLen.toNat := by omega
    obtain ⟨-, -, -, hnext⟩ := h.dataStep_atEnd hst hend draw b
    refine ⟨hend, ?_⟩
    by_cases hrow : f.row.toNat + 1 = f.lHeight.toNat
    · exact .inr ⟨hnext.trans (if_pos hrow), hrow⟩
    · exact .inl ⟨hnext.trans (if_neg hrow), hrow⟩

/-- Settles O43: SRST and FLT.START have their own edges, FLT.B one for each state of the unit, and no other command
touches it. -/
theorem fltStateChangesOnlyAlongItsTable : Obligations.FltStateChangesOnlyAlongItsTable := by
  intro i s t h hexec hne
  by_cases hsrst : i = .srst
  · subst hsrst
    cases hexec
    exact .inl ⟨rfl, rfl⟩
  by_cases hstart : i = .fltStart
  · subst hstart
    cases hexec
    exact .inr (.inl ⟨rfl, s.flt.start_st _⟩)
  by_cases hb : ∃ b, i = .fltB b
  · obtain ⟨b, rfl⟩ := hb
    refine .inr (.inr ⟨b, rfl, ?_⟩)
    obtain ⟨-, rfl⟩ | ⟨-, rfl⟩ | ⟨hst, rfl⟩ | ⟨hst, rfl⟩ | ⟨hst, -, rfl⟩ := execFltB_cases hexec
    · exact absurd (by rw [State.raiseCmd_eq]) hne
    · exact absurd rfl hne
    · exact .inr (.inr (.inr ⟨hst, rfl⟩))
    · obtain ⟨hgt, heq⟩ | ⟨ft, hle, -, heq⟩ := s.flt.tagStep_cases b
      · exact .inr (.inl ⟨hst, congrArg FltUnit.st heq, hgt⟩)
      · exact .inl ⟨hst, congrArg FltUnit.st heq, hle⟩
    · exact .inr (.inr (.inl ⟨hst, h.flt.dataStep_st hst s.draw b hne⟩))
  · exact absurd (congrArg FltUnit.st (exec_flt_eq hsrst hstart (not_exists.mp hb) hexec)) hne

end Sys2Proof.Machine
end

section

namespace Sys2Proof.Machine

/-! ### FRM.START, and FRM.B and FRM.EOS outside a chunk (43_framing.md R243, R245, R254, R258) -/

/-- Settles O44: FRM.START's word is its encoding, and its rule sets every FRM register but FRM_CTRL. -/
theorem frmStartClearsAndLatches : Obligations.FrmStartClearsAndLatches :=
  ⟨encodedByOneWord_encode (i := .frmStart) rfl, fun _ => rfl⟩

theorem State.next_raiseCmd (s : State) (c : CmdCode) :
    (.next (s.raiseCmd c) : Host.Outcome State Fault Refusal) =
      .next { s with cmdCode := if s.cmdCode = .noError then c else s.cmdCode } :=
  congrArg Host.Outcome.next (s.raiseCmd_eq c)

/-- Settles O45: each of the three states has its own rule. -/
theorem frmByteOutsideAChunk : Obligations.FrmByteOutsideAChunk := by
  intro s b
  refine ⟨fun hst => ?idle, fun hst => execFrmB_of_err hst b, fun hst => ?done⟩
  case idle => exact (execFrmB_of_idle hst b).trans (s.next_raiseCmd _)
  case done => exact (execFrmB_of_done hst b).trans (congrArg Host.Outcome.next (s.afterFrm_nil _))

theorem FrmSt.mem_running {st : FrmSt} (hidle : st ≠ .idle) (hdone : st ≠ .done) (herr : st ≠ .err) :
    st ∈ ([.sig, .len, .type, .data, .crc] : List FrmSt) := by
  cases st with
  | idle => exact absurd rfl hidle
  | done => exact absurd rfl hdone
  | err => exact absurd rfl herr
  | sig | len | type | data | crc => decide

/-- Settles O51: FRM.EOS's word is its encoding; it has one rule before a stream, one after it and one within. -/
theorem frmEosReportsAMissingIend : Obligations.FrmEosReportsAMissingIend := by
  refine ⟨encodedByOneWord_encode (i := .frmEos) rfl, fun s => ⟨fun hst => ?idle, fun hst => ?ended, ?running⟩⟩
  case idle => exact (execFrmEos_of_idle hst).trans (s.next_raiseCmd _)
  case ended => exact execFrmEos_of_ended hst
  case running => exact fun hidle hdone herr => execFrmEos_of_running (FrmSt.mem_running hidle hdone herr)

end Sys2Proof.Machine
end

section

namespace Sys2Proof.Machine

/-! ### FRM.B in the signature (43_framing.md R246, R247) -/

/-- The eighth position is the one after which FIDX counts to 8. -/
theorem fidx_succ_eq_eight_iff {x : BitVec 4} : x + 1 = 8 ↔ x.toNat = 7 := by
  revert x
  decide

/-- Settles O46: a byte that differs errs; one that matches counts FIDX or, at the eighth position, ends the
signature. -/
theorem frmSignatureByteMatchesOrErrs : Obligations.FrmSignatureByteMatchesOrErrs := by
  rintro s b k hst rfl - sigBytes
  have hexec : exec (.frmB b) s = .next (s.afterFrm (s.frm.consume.sigStep b, [])) := execFrmB_of_sig hst b
  rw [State.afterFrm_nil] at hexec
  obtain ⟨hb, h8, heq⟩ | ⟨hb, h8, heq⟩ | ⟨hb, heq⟩ := s.frm.consume.sigStep_cases b <;> rw [heq] at hexec
  · have h7 := fidx_succ_eq_eight_iff.mp h8
    exact ⟨fun _ hlt => absurd h7 hlt.ne, fun _ _ => hexec, fun hne => absurd hb hne⟩
  · have h7 := mt fidx_succ_eq_eight_iff.mpr h8
    exact ⟨fun _ _ => hexec, fun _ heq7 => absurd heq7 h7, fun hne => absurd hb hne⟩
  · exact ⟨fun hb' _ => absurd hb' hb, fun hb' _ => absurd hb' hb, fun _ => hexec⟩

end Sys2Proof.Machine
end

section

namespace Sys2Proof.Machine

/-! ### What one byte makes of the FRM unit inside a chunk (43_framing.md R249 to R253) -/

/-- In unit `f` the byte `b` leaves the unit `r.1` and emits the records `r.2`. -/
def FrmUnit.Takes (f : FrmUnit) (b : Byte) (r : FrmUnit × List FrmRecord) : Prop :=
  ∀ s : State, s.frm = f → exec (.frmB b) s = .next (s.afterFrm r)

/-- The unit after one of the first three bytes of the length field. -/
def FrmUnit.addLenByte (f : FrmUnit) (b : Byte) : FrmUnit :=
  { f with pos := f.pos + 1, len := assemble f.len f.fidx b, fidx := f.fidx + 1 }

/-- The unit after one of the first three bytes of the type field. -/
def FrmUnit.addTypeByte (f : FrmUnit) (b : Byte) : FrmUnit :=
  { f with
    pos := f.pos + 1
    ctype := assemble f.ctype f.fidx b
    fcrc := if f.fidx = 0 then crcStep crcPreset b else crcStep f.fcrc b
    fidx := f.fidx + 1 }

/-- The unit after one of the first three bytes of the CRC field. -/
def FrmUnit.addCrcByte (f : FrmUnit) (b : Byte) : FrmUnit :=
  { f with pos := f.pos + 1, crcRx := assemble f.crcRx f.fidx b, fidx := f.fidx + 1 }

/-- The unit with its length field complete. -/
def FrmUnit.endLen (f : FrmUnit) (b : Byte) : FrmUnit :=
  { f with pos := f.pos + 1, len := (f.len <<< 8) ||| b.setWidth 32, fidx := 0, st := .type }

/-- The unit with its type field complete, before the order check. -/
def FrmUnit.endType (f : FrmUnit) (b : Byte) : FrmUnit :=
  { f with pos := f.pos + 1, ctype := (f.ctype <<< 8) ||| b.setWidth 32, fcrc := crcStep f.fcrc b, fidx := 0 }

/-- The unit with its CRC field complete, before the comparison. -/
def FrmUnit.endCrc (f : FrmUnit) (b : Byte) : FrmUnit :=
  { f with pos := f.pos + 1, crcRx := (f.crcRx <<< 8) ||| b.setWidth 32, fidx := 0 }

/-- The unit after a data byte that is not the last. -/
def FrmUnit.addDataByte (f : FrmUnit) (b : Byte) : FrmUnit :=
  { f with pos := f.pos + 1, fcrc := crcStep f.fcrc b, rem := f.rem - 1 }

/-- The unit after the last data byte. -/
def FrmUnit.endData (f : FrmUnit) (b : Byte) : FrmUnit := { f.addDataByte b with fidx := 0, st := .crc }

/-- The unit past an accepted type (43_framing.md R252, R256). -/
def FrmUnit.acceptType (f : FrmUnit) : FrmUnit :=
  { f.markSeen f.ctype with rem := f.len, st := if f.len = 0 then .crc else .data }

/-- The unit past an accepted CRC field (43_framing.md R253). -/
def FrmUnit.acceptCrc (f : FrmUnit) : FrmUnit :=
  { f with
    crcBad := !decide (f.crcRx = f.crcCalc)
    nchunk := f.nchunk + 1
    st := if f.ctype = typeIEND then .done else .len }

/-- The order check raises its error (43_framing.md R255). -/
def FrmUnit.OrderFails (f : FrmUnit) : Prop := ordChk f.lctrl = true ∧ f.orderViolation f.ctype = true

/-- The CRC comparison raises its error (43_framing.md R253). -/
def FrmUnit.CrcFails (f : FrmUnit) : Prop := f.crcRx ≠ f.crcCalc ∧ crcChk f.lctrl = true

theorem FrmUnit.completeType_of_orderFails {f : FrmUnit} (h : f.OrderFails) : f.completeType = (f.raise .order, []) :=
  if_pos (Bool.and_eq_true_iff.mpr h)

theorem FrmUnit.completeType_of_not_orderFails {f : FrmUnit} (h : ¬ f.OrderFails) :
    f.completeType = (f.acceptType, [.chunkBegin f.len f.ctype]) :=
  if_neg (mt Bool.and_eq_true_iff.mp h)

theorem FrmUnit.completeCrc_of_crcFails {f : FrmUnit} (h : f.CrcFails) :
    f.completeCrc = ({ f with crcBad := true }.raise .crc, []) := by
  obtain ⟨hne, hchk⟩ := h
  simp [FrmUnit.completeCrc, hne, hchk]

theorem FrmUnit.completeCrc_of_not_crcFails {f : FrmUnit} (h : ¬ f.CrcFails) :
    f.completeCrc = (f.acceptCrc, [.chunkEnd f.crcRx f.crcCalc (decide (f.crcRx = f.crcCalc))]) := by
  obtain ⟨hne, hchk, -⟩ | ⟨-, heq⟩ := f.completeCrc_cases
  · exact absurd ⟨hne, hchk⟩ h
  · exact heq

theorem assemble_fourth {x : BitVec 4} (h : x.toNat = 3) (field : Word) (b : Byte) :
    assemble field x b = (field <<< 8) ||| b.setWidth 32 :=
  assemble_of_ne (by rintro rfl; cases h) field b

section

variable {f : FrmUnit} {b : Byte}

theorem FrmUnit.takes_addLenByte (hst : f.st = .len) (hlt : f.fidx.toNat < 3) : f.Takes b (f.addLenByte b, []) := by
  rintro s rfl
  refine (execFrmB_of_len hst b).trans ?_
  rw [FrmUnit.lenStep_mid (f := s.frm.consume) hlt]
  rfl

theorem FrmUnit.takes_endLen (hst : f.st = .len) (hlast : f.fidx.toNat = 3) : f.Takes b (f.endLen b, []) := by
  rintro s rfl
  refine (execFrmB_of_len hst b).trans ?_
  rw [FrmUnit.lenStep_last (f := s.frm.consume) hlast, s.frm.consume_fidx, assemble_fourth hlast]
  rfl

theorem FrmUnit.takes_addTypeByte (hst : f.st = .type) (hlt : f.fidx.toNat < 3) :
    f.Takes b (f.addTypeByte b, []) := by
  rintro s rfl
  refine (execFrmB_of_type hst b).trans ?_
  rw [FrmUnit.typeStep_mid (f := s.frm.consume) hlt]
  rfl

theorem FrmUnit.takes_endType (hst : f.st = .type) (hlast : f.fidx.toNat = 3) :
    f.Takes b (f.endType b).completeType := by
  rintro s rfl
  refine (execFrmB_of_type hst b).trans ?_
  rw [FrmUnit.typeStep_last (f := s.frm.consume) hlast, s.frm.consume_fidx, assemble_fourth hlast]
  rfl

theorem FrmUnit.takes_endType_of_orderFails (hst : f.st = .type) (hlast : f.fidx.toNat = 3)
    (hfails : (f.endType b).OrderFails) : f.Takes b ((f.endType b).raise .order, []) :=
  FrmUnit.completeType_of_orderFails hfails ▸ FrmUnit.takes_endType hst hlast

theorem FrmUnit.takes_endType_of_not_orderFails (hst : f.st = .type) (hlast : f.fidx.toNat = 3)
    (hok : ¬ (f.endType b).OrderFails) :
    f.Takes b ((f.endType b).acceptType, [.chunkBegin f.len (f.endType b).ctype]) :=
  FrmUnit.completeType_of_not_orderFails hok ▸ FrmUnit.takes_endType hst hlast

theorem FrmUnit.takes_addDataByte (hst : f.st = .data) (hrem : f.rem ≠ 1) :
    f.Takes b (f.addDataByte b, [.chunkData b]) := by
  rintro s rfl
  refine (execFrmB_of_data hst b).trans ?_
  rw [FrmUnit.dataStep_mid (f := s.frm.consume) hrem]
  rfl

theorem FrmUnit.takes_endData (hst : f.st = .data) (hrem : f.rem = 1) : f.Takes b (f.endData b, [.chunkData b]) := by
  rintro s rfl
  refine (execFrmB_of_data hst b).trans ?_
  rw [FrmUnit.dataStep_last (f := s.frm.consume) hrem, FrmUnit.endData, FrmUnit.addDataByte, hrem]
  rfl

theorem FrmUnit.takes_addCrcByte (hst : f.st = .crc) (hlt : f.fidx.toNat < 3) : f.Takes b (f.addCrcByte b, []) := by
  rintro s rfl
  refine (execFrmB_of_crc hst b).trans ?_
  rw [FrmUnit.crcFieldStep_mid (f := s.frm.consume) hlt]
  rfl

theorem FrmUnit.takes_endCrc (hst : f.st = .crc) (hlast : f.fidx.toNat = 3) :
    f.Takes b (f.endCrc b).completeCrc := by
  rintro s rfl
  refine (execFrmB_of_crc hst b).trans ?_
  rw [FrmUnit.crcFieldStep_last (f := s.frm.consume) hlast, s.frm.consume_fidx, assemble_fourth hlast]
  rfl

theorem FrmUnit.takes_endCrc_of_crcFails (hst : f.st = .crc) (hlast : f.fidx.toNat = 3)
    (hfails : (f.endCrc b).CrcFails) : f.Takes b ({ f.endCrc b with crcBad := true }.raise .crc, []) :=
  FrmUnit.completeCrc_of_crcFails hfails ▸ FrmUnit.takes_endCrc hst hlast

theorem FrmUnit.takes_endCrc_of_not_crcFails (hst : f.st = .crc) (hlast : f.fidx.toNat = 3)
    (hok : ¬ (f.endCrc b).CrcFails) :
    f.Takes b ((f.endCrc b).acceptCrc,
      [.chunkEnd (f.endCrc b).crcRx (f.endCrc b).crcCalc (decide ((f.endCrc b).crcRx = (f.endCrc b).crcCalc))]) :=
  FrmUnit.completeCrc_of_not_crcFails hok ▸ FrmUnit.takes_endCrc hst hlast

end

theorem State.next_afterFrm_nil (s : State) (f : FrmUnit) :
    (.next (s.afterFrm (f, [])) : Host.Outcome State Fault Refusal) = .next { s with frm := f } :=
  congrArg Host.Outcome.next (s.afterFrm_nil f)

/-- A byte that emits nothing changes the unit alone. -/
theorem FrmUnit.Takes.exec_eq_of_nil {s : State} {b : Byte} {g : FrmUnit} (h : s.frm.Takes b (g, [])) :
    exec (.frmB b) s = .next { s with frm := g } :=
  (h s rfl).trans (s.next_afterFrm_nil g)

/-- Settles O47: the first three positions add to the field, the fourth ends it. -/
theorem frmLengthByteIsAssembled : Obligations.FrmLengthByteIsAssembled := by
  rintro s b hst - field
  refine ⟨fun hlt => (FrmUnit.takes_addLenByte hst hlt).exec_eq_of_nil, fun hlast => ?_⟩
  have hfield : field = (s.frm.len <<< 8) ||| b.setWidth 32 := assemble_fourth hlast s.frm.len b
  rw [hfield]
  exact (FrmUnit.takes_endLen hst hlast).exec_eq_of_nil

/-- The two ways a type passes the order check. -/
theorem FrmUnit.not_orderFails_iff (f : FrmUnit) :
    ¬ f.OrderFails ↔ ordChk f.lctrl = false ∨ ¬ f.orderViolation f.ctype = true := by
  rw [FrmUnit.OrderFails, not_and_or, Bool.not_eq_true]

/-- Settles O48: the first three positions add to the field; the fourth ends it, and the order check decides. -/
theorem frmTypeStepAssemblesThenChecksTheOrder : Obligations.FrmTypeStepAssemblesThenChecksTheOrder := by
  rintro s b hst - t g violation
  have hviol : (s.frm.endType b).orderViolation t = true ↔ violation := (s.frm.endType b).orderViolation_iff t
  refine ⟨fun hlt => ?mid, fun hlast hchk hv => ?fails, fun hlast hpass => ?passes⟩
  case mid => exact (FrmUnit.takes_addTypeByte hst hlt).exec_eq_of_nil
  case fails =>
    have hfails : (s.frm.endType b).OrderFails := ⟨hchk, hviol.mpr hv⟩
    exact (FrmUnit.takes_endType_of_orderFails hst hlast hfails).exec_eq_of_nil
  case passes =>
    have hok : ¬ (s.frm.endType b).OrderFails :=
      (FrmUnit.not_orderFails_iff _).mpr (hpass.imp_right (mt hviol.mp))
    exact FrmUnit.takes_endType_of_not_orderFails hst hlast hok s rfl

/-- Settles O49: the last data byte enters CRC, any other stays in DATA. -/
theorem frmDataByteIsReportedAndCounted : Obligations.FrmDataByteIsReportedAndCounted := fun s _ hst =>
  ⟨fun hrem => FrmUnit.takes_addDataByte hst hrem s rfl, fun hrem => FrmUnit.takes_endData hst hrem s rfl⟩

/-- Settles O50: the first three positions add to the field; the fourth ends it, and the comparison decides. -/
theorem frmCrcStepAssemblesThenAcceptsOrErrs : Obligations.FrmCrcStepAssemblesThenAcceptsOrErrs := by
  rintro s b hst - rx computed g after
  refine ⟨fun hlt => ?mid, fun hlast heq => ?right, fun hlast hne hchk => ?fails, fun hlast hne hchk => ?unchecked⟩
  case mid => exact (FrmUnit.takes_addCrcByte hst hlt).exec_eq_of_nil
  case right =>
    have hcalc : (s.frm.endCrc b).crcRx = (s.frm.endCrc b).crcCalc := heq
    have hok : ¬ (s.frm.endCrc b).CrcFails := fun ⟨hne, _⟩ => hne hcalc
    refine (FrmUnit.takes_endCrc_of_not_crcFails hst hlast hok s rfl).trans ?_
    rw [FrmUnit.acceptCrc, decide_eq_true hcalc]
    rfl
  case fails =>
    have hfails : (s.frm.endCrc b).CrcFails := ⟨hne, hchk⟩
    exact (FrmUnit.takes_endCrc_of_crcFails hst hlast hfails).exec_eq_of_nil
  case unchecked =>
    have hcalc : (s.frm.endCrc b).crcRx ≠ (s.frm.endCrc b).crcCalc := hne
    have hok : ¬ (s.frm.endCrc b).CrcFails := fun ⟨_, hon⟩ => Bool.false_ne_true (hchk.symm.trans hon)
    refine (FrmUnit.takes_endCrc_of_not_crcFails hst hlast hok s rfl).trans ?_
    rw [FrmUnit.acceptCrc, decide_eq_false hcalc]
    rfl

end Sys2Proof.Machine
end

section

namespace Sys2Proof.Machine

/-! ### A field's four bytes (43_framing.md R248, 20_memory.md R72) -/

/-- Shifting in the next eight bits of a field extends what has been assembled of it. -/
theorem shiftLeft_or_extractLsb' (v : Word) {n lo : Nat} (h : lo + (n + 8) ≤ 32) :
    ((v.extractLsb' (lo + 8) n).setWidth 32 <<< 8) ||| (v.extractLsb' lo 8).setWidth 32 =
      (v.extractLsb' lo (n + 8)).setWidth 32 := by
  ext i hi
  by_cases hlow : i < 8
  · simp [hlow, show i < n + 8 by omega]
  · have hsame : lo + 8 + (i - 8) = lo + i := by omega
    by_cases hn : i - 8 < n
    · simp [hlow, hn, hsame, show i < n + 8 by omega]
    · simp [hlow, hn, show ¬ i < n + 8 by omega]

/-- The first byte set and three more shifted in, FIDX counted from 0, are the word whose bytes they are. -/
theorem assemble_bigEndian (v field : Word) :
    ((assemble (assemble (assemble field 0 (v.extractLsb' 24 8)) (0 + 1) (v.extractLsb' 16 8)) (0 + 1 + 1)
      (v.extractLsb' 8 8)) <<< 8) ||| (v.extractLsb' 0 8).setWidth 32 = v := by
  rw [assemble_zero, assemble_of_ne (by decide), assemble_of_ne (by decide), shiftLeft_or_extractLsb' v (by omega),
    shiftLeft_or_extractLsb' v (by omega), shiftLeft_or_extractLsb' v (by omega)]
  simp

theorem bigEndian_ofNat (b0 b1 b2 b3 : Byte) :
    bigEndian (BitVec.ofNat 32 (b0.toNat * 2 ^ 24 + b1.toNat * 2 ^ 16 + b2.toNat * 2 ^ 8 + b3.toNat)) =
      [b0, b1, b2, b3] := by
  have h0 := b0.isLt
  have h1 := b1.isLt
  have h2 := b2.isLt
  have h3 := b3.isLt
  simp only [bigEndian, List.cons.injEq, and_true]
  refine ⟨?_, ?_, ?_, ?_⟩ <;>
  · apply BitVec.eq_of_toNat_eq
    rw [BitVec.extractLsb'_toNat, BitVec.toNat_ofNat, Nat.shiftRight_eq_div_pow]
    omega

/-! ### Bytes fed to the FRM unit one after another -/

/-- From unit `f` the bytes `bs` complete, leave the unit `g` and emit the records `rs`. -/
def FrmUnit.Walks (f : FrmUnit) (bs : List Byte) (g : FrmUnit) (rs : List FrmRecord) : Prop :=
  ∀ s : State, s.frm = f → execAll (bs.map .frmB) s = .next (s.afterFrm (g, rs))

theorem State.afterFrm_afterFrm (s : State) (f g : FrmUnit) (rs qs : List FrmRecord) :
    (s.afterFrm (f, rs)).afterFrm (g, qs) = s.afterFrm (g, rs ++ qs) := by
  simp [State.afterFrm, State.setFrm, State.emitFrm]

section

variable {f g k : FrmUnit} {bs cs : List Byte} {rs qs : List FrmRecord}

theorem FrmUnit.walks_nil (f : FrmUnit) : f.Walks [] f [] := by
  rintro s rfl
  simp [execAll, State.afterFrm]

theorem FrmUnit.Takes.walks {b : Byte} (h : f.Takes b (g, rs)) : f.Walks [b] g rs := fun s hs =>
  (execAll_singleton _ s).trans (h s hs)

theorem FrmUnit.Walks.append (h : f.Walks bs g rs) (h' : g.Walks cs k qs) : f.Walks (bs ++ cs) k (rs ++ qs) := by
  intro s hs
  rw [List.map_append, execAll_append_of_next (h s hs), h' _ rfl, State.afterFrm_afterFrm]

end

/-- In state `st` each of a field's first three bytes is added by `add`, and counted. -/
def FrmSt.AddsBy (st : FrmSt) (add : FrmUnit → Byte → FrmUnit) : Prop :=
  ∀ (f : FrmUnit) (b : Byte), f.st = st → f.fidx.toNat < 3 →
    f.Takes b (add f b, []) ∧ (add f b).st = st ∧ (add f b).fidx.toNat = f.fidx.toNat + 1

theorem fidx_succ_toNat {x : BitVec 4} (h : x.toNat < 3) : (x + 1).toNat = x.toNat + 1 := by bv_omega

theorem FrmSt.len_addsBy : FrmSt.len.AddsBy FrmUnit.addLenByte := fun _ _ hst hlt =>
  ⟨FrmUnit.takes_addLenByte hst hlt, hst, fidx_succ_toNat hlt⟩

theorem FrmSt.type_addsBy : FrmSt.type.AddsBy FrmUnit.addTypeByte := fun _ _ hst hlt =>
  ⟨FrmUnit.takes_addTypeByte hst hlt, hst, fidx_succ_toNat hlt⟩

theorem FrmSt.crc_addsBy : FrmSt.crc.AddsBy FrmUnit.addCrcByte := fun _ _ hst hlt =>
  ⟨FrmUnit.takes_addCrcByte hst hlt, hst, fidx_succ_toNat hlt⟩

/-- The unit after the first three bytes of the field `v`, each added by `add`. -/
def FrmUnit.addThree (add : FrmUnit → Byte → FrmUnit) (f : FrmUnit) (v : Word) : FrmUnit :=
  add (add (add f (v.extractLsb' 24 8)) (v.extractLsb' 16 8)) (v.extractLsb' 8 8)

/-- The first three bytes of a field bring the unit to its fourth position. -/
theorem FrmSt.AddsBy.addThree {st : FrmSt} {add : FrmUnit → Byte → FrmUnit} (hadd : st.AddsBy add) {f : FrmUnit}
    (hst : f.st = st) (hfidx : f.fidx = 0) (v : Word) :
    f.Walks [v.extractLsb' 24 8, v.extractLsb' 16 8, v.extractLsb' 8 8] (f.addThree add v) [] ∧
      (f.addThree add v).st = st ∧ (f.addThree add v).fidx.toNat = 3 := by
  have hzero : f.fidx.toNat = 0 := by rw [hfidx]; rfl
  obtain ⟨htakes0, hst1, hfidx1⟩ := hadd f (v.extractLsb' 24 8) hst (by omega)
  obtain ⟨htakes1, hst2, hfidx2⟩ := hadd _ (v.extractLsb' 16 8) hst1 (by omega)
  obtain ⟨htakes2, hst3, hfidx3⟩ := hadd _ (v.extractLsb' 8 8) hst2 (by omega)
  exact ⟨htakes0.walks.append (htakes1.walks.append htakes2.walks), hst3, by rw [FrmUnit.addThree]; omega⟩

/-! ### The parts of a chunk (43_framing.md R241, R259) -/

/-- The unit past the length field `v`. -/
def FrmUnit.withLen (f : FrmUnit) (v : Word) : FrmUnit := { f with pos := f.pos + 4, len := v, fidx := 0, st := .type }

/-- The unit with the type field `v` complete, before the order check. -/
def FrmUnit.withType (f : FrmUnit) (v : Word) : FrmUnit :=
  { f with pos := f.pos + 4, ctype := v, fcrc := (bigEndian v).foldl crcStep crcPreset, fidx := 0 }

/-- The unit past the data bytes. -/
def FrmUnit.withData (f : FrmUnit) (data : List Byte) : FrmUnit :=
  { f with pos := f.pos + BitVec.ofNat 32 data.length, fcrc := data.foldl crcStep f.fcrc, rem := 0, st := .crc }

/-- The unit with the CRC field `v` complete, before the comparison. -/
def FrmUnit.withCrc (f : FrmUnit) (v : Word) : FrmUnit := { f with pos := f.pos + 4, crcRx := v, fidx := 0 }

/-- FRM_POS counts a field's four bytes. -/
theorem pos_add_four (p : Word) : p + 1 + 1 + 1 + 1 = p + 4 := by bv_omega

section

variable {f : FrmUnit} (hfidx : f.fidx = 0) (v : Word)

include hfidx

theorem FrmUnit.endLen_addThree :
    (f.addThree FrmUnit.addLenByte v).endLen (v.extractLsb' 0 8) = f.withLen v := by
  simp only [FrmUnit.addThree, FrmUnit.addLenByte, FrmUnit.endLen, hfidx, assemble_bigEndian, pos_add_four]
  rfl

theorem FrmUnit.endType_addThree :
    (f.addThree FrmUnit.addTypeByte v).endType (v.extractLsb' 0 8) = f.withType v := by
  simp only [FrmUnit.addThree, FrmUnit.addTypeByte, FrmUnit.endType, hfidx, assemble_bigEndian, pos_add_four]
  rfl

theorem FrmUnit.endCrc_addThree :
    (f.addThree FrmUnit.addCrcByte v).endCrc (v.extractLsb' 0 8) = f.withCrc v := by
  simp only [FrmUnit.addThree, FrmUnit.addCrcByte, FrmUnit.endCrc, hfidx, assemble_bigEndian, pos_add_four]
  rfl

/-- The length field. -/
theorem FrmUnit.walks_len (hst : f.st = .len) : f.Walks (bigEndian v) (f.withLen v) [] := by
  obtain ⟨hthree, hst3, hfidx3⟩ := FrmSt.len_addsBy.addThree hst hfidx v
  rw [← FrmUnit.endLen_addThree hfidx]
  exact hthree.append (FrmUnit.takes_endLen hst3 hfidx3).walks

/-- A type field that passes the order check. -/
theorem FrmUnit.walks_type (hst : f.st = .type) (hok : ¬ (f.withType v).OrderFails) :
    f.Walks (bigEndian v) (f.withType v).acceptType [.chunkBegin f.len v] := by
  obtain ⟨hthree, hst3, hfidx3⟩ := FrmSt.type_addsBy.addThree hst hfidx v
  have hend := FrmUnit.endType_addThree hfidx v
  have hlast := FrmUnit.takes_endType_of_not_orderFails hst3 hfidx3 (hend.symm ▸ hok)
  rw [hend] at hlast
  exact hthree.append hlast.walks

/-- A CRC field that the comparison accepts. -/
theorem FrmUnit.walks_crc (hst : f.st = .crc) (hok : ¬ (f.withCrc v).CrcFails) :
    f.Walks (bigEndian v) (f.withCrc v).acceptCrc [.chunkEnd v f.crcCalc (decide (v = f.crcCalc))] := by
  obtain ⟨hthree, hst3, hfidx3⟩ := FrmSt.crc_addsBy.addThree hst hfidx v
  have hend := FrmUnit.endCrc_addThree hfidx v
  have hlast := FrmUnit.takes_endCrc_of_not_crcFails hst3 hfidx3 (hend.symm ▸ hok)
  rw [hend] at hlast
  exact hthree.append hlast.walks

end

/-- The unit past a data byte, the last or any other, where FIDX is 0. -/
def FrmUnit.passDataByte (f : FrmUnit) (b : Byte) : FrmUnit :=
  { f.addDataByte b with st := if f.rem - 1 = 0 then .crc else .data }

theorem FrmUnit.takes_passDataByte {f : FrmUnit} (hst : f.st = .data) (hfidx : f.fidx = 0) (b : Byte) :
    f.Takes b (f.passDataByte b, [.chunkData b]) := by
  by_cases hrem : f.rem = 1
  · have hzero : f.rem - 1 = 0 := by rw [hrem]; rfl
    have hlast := FrmUnit.takes_endData hst hrem (b := b)
    rw [FrmUnit.passDataByte, if_pos hzero]
    rwa [FrmUnit.endData, ← hfidx] at hlast
  · have hne : f.rem - 1 ≠ 0 := by bv_omega
    have hmid := FrmUnit.takes_addDataByte hst hrem (b := b)
    rw [FrmUnit.passDataByte, if_neg hne, ← hst]
    exact hmid

/-- The data bytes, FRM_REM of them; with none the unit is in CRC from the start. -/
theorem FrmUnit.walks_data {data : List Byte} {f : FrmUnit} (hlen : data.length < 2 ^ 32)
    (hrem : f.rem = BitVec.ofNat 32 data.length) (hst : f.st = if f.rem = 0 then .crc else .data) (hfidx : f.fidx = 0) :
    f.Walks data (f.withData data) (data.map .chunkData) := by
  induction data generalizing f with
  | nil =>
    have hcrc : f.st = .crc := hst.trans (if_pos hrem)
    have hzero : f.rem = 0 := hrem
    have hself : f.withData [] = f := by
      rw [FrmUnit.withData, ← hcrc, ← hzero]
      simp
    rw [hself]
    exact f.walks_nil
  | cons b data ih =>
    rw [List.length_cons] at hlen hrem
    have hpos : f.rem ≠ 0 := by bv_omega
    have hnext : f.rem - 1 = BitVec.ofNat 32 data.length := by bv_omega
    have hfirst := FrmUnit.takes_passDataByte (hst.trans (if_neg hpos)) hfidx b
    have hrest := ih (f := f.passDataByte b) (by omega) hnext rfl hfidx
    have hend : (f.passDataByte b).withData data = f.withData (b :: data) := by
      have hcount : f.pos + 1 + BitVec.ofNat 32 data.length = f.pos + BitVec.ofNat 32 (data.length + 1) := by bv_omega
      simp only [FrmUnit.withData, FrmUnit.passDataByte, FrmUnit.addDataByte, hcount, List.length_cons, List.foldl_cons]
    exact hend ▸ hfirst.walks.append hrest

/-! ### A whole chunk (43_framing.md R259, R260) -/

/-- The unit past the length and the type of a chunk, in front of its first data byte. -/
def FrmUnit.withHeader (f : FrmUnit) (len type : Word) : FrmUnit := ((f.withLen len).withType type).acceptType

/-- The unit past an accepted chunk. -/
def FrmUnit.withChunk (f : FrmUnit) (type : Word) (data : List Byte) (crcField : Word) : FrmUnit :=
  (((f.withHeader (BitVec.ofNat 32 data.length) type).withData data).withCrc crcField).acceptCrc

/-- The computed CRC of a chunk is that of its type and data (41_crc.md R163). -/
theorem FrmUnit.crcCalc_withData_withHeader (f : FrmUnit) (len type : Word) (data : List Byte) :
    ((f.withHeader len type).withData data).crcCalc = crc32 (bigEndian type ++ data) := by
  rw [crc32, List.foldl_append]
  rfl

theorem FrmUnit.pos_withChunk (f : FrmUnit) (type : Word) (data : List Byte) (crcField : Word) :
    (f.withChunk type data crcField).pos = f.pos + BitVec.ofNat 32 (12 + data.length) := by
  have hsum : f.pos + 4 + 4 + BitVec.ofNat 32 data.length + 4 = f.pos + BitVec.ofNat 32 (12 + data.length) := by
    bv_omega
  exact hsum

/-- A chunk whose type and CRC the checks accept: its length, its type, its data and its CRC. -/
theorem FrmUnit.walks_chunk {f : FrmUnit} (hst : f.st = .len) (hfidx : f.fidx = 0) {type crcField : Word}
    {data : List Byte} (hlen : data.length < 2 ^ 32)
    (hord : ordChk f.lctrl = true → f.orderViolation type = false)
    (hcrc : crcChk f.lctrl = true → crcField = crc32 (bigEndian type ++ data)) :
    f.Walks (bigEndian (BitVec.ofNat 32 data.length) ++ bigEndian type ++ data ++ bigEndian crcField)
      (f.withChunk type data crcField)
      ([.chunkBegin (BitVec.ofNat 32 data.length) type] ++ data.map .chunkData ++
        [.chunkEnd crcField (crc32 (bigEndian type ++ data))
          (decide (crcField = crc32 (bigEndian type ++ data)))]) := by
  have hcalc := f.crcCalc_withData_withHeader (BitVec.ofNat 32 data.length) type data
  have hordOk : ¬ ((f.withLen (BitVec.ofNat 32 data.length)).withType type).OrderFails := fun ⟨hchk, hviol⟩ =>
    Bool.false_ne_true ((hord hchk).symm.trans hviol)
  have hcrcOk : ¬ (((f.withHeader (BitVec.ofNat 32 data.length) type).withData data).withCrc crcField).CrcFails :=
    fun ⟨hne, hchk⟩ => hne ((hcrc hchk).trans hcalc.symm)
  have hwalkLen := FrmUnit.walks_len hfidx (BitVec.ofNat 32 data.length) hst
  have hwalkType := FrmUnit.walks_type (f := f.withLen (BitVec.ofNat 32 data.length)) rfl type rfl hordOk
  have hwalkData := FrmUnit.walks_data (f := f.withHeader (BitVec.ofNat 32 data.length) type) hlen rfl rfl rfl
  have hwalkCrc := FrmUnit.walks_crc (f := (f.withHeader (BitVec.ofNat 32 data.length) type).withData data) rfl crcField
    rfl hcrcOk
  rw [hcalc] at hwalkCrc
  exact ((hwalkLen.append hwalkType).append hwalkData).append hwalkCrc

/-- Settles O53: the bytes of the chunk walk the unit through its parts. -/
theorem frmWalksAChunkByItsLength : Obligations.FrmWalksAChunkByItsLength := by
  intro s type crcField data hst hfidx hlen hord hcrc
  refine ⟨_, FrmUnit.walks_chunk hst hfidx hlen hord hcrc s rfl, rfl, ?records,
    s.frm.pos_withChunk type data crcField, rfl, rfl, rfl, rfl, rfl⟩
  case records => simp only [State.afterFrm_frmOut, List.append_assoc]

/-- Settles O52: the four bytes are those of the number they make. -/
theorem fourLengthBytesMakeABigEndianNumber : Obligations.FourLengthBytesMakeABigEndianNumber := by
  intro s b0 b1 b2 b3 hst hfidx
  have h0 := b0.isLt
  have h1 := b1.isLt
  have h2 := b2.isLt
  have h3 := b3.isLt
  have hwalk := FrmUnit.walks_len hfidx
    (BitVec.ofNat 32 (b0.toNat * 2 ^ 24 + b1.toNat * 2 ^ 16 + b2.toNat * 2 ^ 8 + b3.toNat)) hst s rfl
  rw [bigEndian_ofNat] at hwalk
  refine ⟨_, hwalk, ?number, rfl, rfl, rfl, List.append_nil _⟩
  case number => exact (BitVec.toNat_ofNat _ _).trans (Nat.mod_eq_of_lt (by omega))

end Sys2Proof.Machine
end

section

namespace Sys2Proof.Machine

/-! ### What does not steer the FRM unit (43_framing.md R244, R261) -/

/-- Two values of a data byte leave units that differ in FCRC alone. -/
theorem FrmUnit.dataStep_eq (f : FrmUnit) (a b : Byte) :
    f.dataStep b = ({ (f.dataStep a).1 with fcrc := crcStep f.fcrc b }, [.chunkData b]) := by
  by_cases hrem : f.rem = 1
  · rw [FrmUnit.dataStep_last hrem, FrmUnit.dataStep_last hrem]
  · rw [FrmUnit.dataStep_mid hrem, FrmUnit.dataStep_mid hrem]

/-- Settles O54: the data step with another byte. -/
theorem dataByteValuesNeverSteerFrm : Obligations.DataByteValuesNeverSteerFrm := by
  intro s t a b hst hexec
  cases (execFrmB_of_data hst a).symm.trans hexec
  refine (execFrmB_of_data hst b).trans ?_
  rw [s.frm.consume.dataStep_eq a b]
  rfl

/-- The unit with another value in FRM_CTRL. -/
def FrmUnit.withCtrl (f : FrmUnit) (c : BitVec 3) : FrmUnit := { f with ctrl := c }

/-- What a step leaves, with another value in FRM_CTRL. -/
def frmStepWithCtrl (r : FrmUnit × List FrmRecord) (c : BitVec 3) : FrmUnit × List FrmRecord := (r.1.withCtrl c, r.2)

section

variable (f : FrmUnit) (c : BitVec 3) (b : Byte)

theorem FrmUnit.sigStep_withCtrl : (f.withCtrl c).sigStep b = (f.sigStep b).withCtrl c := by
  obtain ⟨hb, h8, heq⟩ | ⟨hb, h8, heq⟩ | ⟨hb, heq⟩ := f.sigStep_cases b <;> rw [heq]
  · exact (if_pos hb).trans (if_pos h8)
  · exact (if_pos hb).trans (if_neg h8)
  · exact if_neg hb

theorem FrmUnit.lenStep_withCtrl : (f.withCtrl c).lenStep b = (f.lenStep b).withCtrl c := by
  by_cases h4 : f.fidx + 1 = 4
  · have hstep : f.lenStep b = _ := if_pos h4
    rw [hstep]
    exact if_pos h4
  · have hstep : f.lenStep b = _ := if_neg h4
    rw [hstep]
    exact if_neg h4

theorem FrmUnit.completeType_withCtrl : (f.withCtrl c).completeType = frmStepWithCtrl f.completeType c := by
  by_cases hfails : f.OrderFails
  · rw [FrmUnit.completeType_of_orderFails hfails, FrmUnit.completeType_of_orderFails (f := f.withCtrl c) hfails]
    rfl
  · rw [FrmUnit.completeType_of_not_orderFails hfails,
      FrmUnit.completeType_of_not_orderFails (f := f.withCtrl c) hfails]
    rfl

theorem FrmUnit.typeStep_withCtrl : (f.withCtrl c).typeStep b = frmStepWithCtrl (f.typeStep b) c := by
  by_cases h4 : f.fidx + 1 = 4
  · have hstep : f.typeStep b = _ := if_pos h4
    rw [hstep, ← FrmUnit.completeType_withCtrl]
    exact if_pos h4
  · have hstep : f.typeStep b = _ := if_neg h4
    rw [hstep]
    exact if_neg h4

theorem FrmUnit.dataStep_withCtrl : (f.withCtrl c).dataStep b = frmStepWithCtrl (f.dataStep b) c := by
  by_cases hrem : f.rem = 1
  · rw [FrmUnit.dataStep_last hrem, FrmUnit.dataStep_last (f := f.withCtrl c) hrem]
    rfl
  · rw [FrmUnit.dataStep_mid hrem, FrmUnit.dataStep_mid (f := f.withCtrl c) hrem]
    rfl

theorem FrmUnit.completeCrc_withCtrl : (f.withCtrl c).completeCrc = frmStepWithCtrl f.completeCrc c := by
  by_cases hfails : f.CrcFails
  · rw [FrmUnit.completeCrc_of_crcFails hfails, FrmUnit.completeCrc_of_crcFails (f := f.withCtrl c) hfails]
    rfl
  · rw [FrmUnit.completeCrc_of_not_crcFails hfails,
      FrmUnit.completeCrc_of_not_crcFails (f := f.withCtrl c) hfails]
    rfl

theorem FrmUnit.crcFieldStep_withCtrl : (f.withCtrl c).crcFieldStep b = frmStepWithCtrl (f.crcFieldStep b) c := by
  by_cases h4 : f.fidx + 1 = 4
  · have hstep : f.crcFieldStep b = _ := if_pos h4
    rw [hstep, ← FrmUnit.completeCrc_withCtrl]
    exact if_pos h4
  · have hstep : f.crcFieldStep b = _ := if_neg h4
    rw [hstep]
    exact if_neg h4

end

/-- The state with another value in FRM_CTRL. -/
def State.withFrmCtrl (s : State) (c : BitVec 3) : State := s.setFrm (s.frm.withCtrl c)

/-- FRM.B commutes with a write to FRM_CTRL (43_framing.md R244). -/
theorem execFrmB_withFrmCtrl {s t : State} {b : Byte} (hexec : execFrmB b s = .next t) (c : BitVec 3) :
    execFrmB b (s.withFrmCtrl c) = .next (t.withFrmCtrl c) := by
  let r : State := s.withFrmCtrl c
  obtain ⟨hst, rfl⟩ | ⟨hst, rfl⟩ | ⟨hst, rfl⟩ | ⟨hst, rfl⟩ | ⟨hst, rfl⟩ | ⟨hst, rfl⟩ | ⟨hst, rfl⟩ | ⟨hst, rfl⟩ :=
    execFrmB_cases hexec
  · rw [State.raiseCmd_eq]
    exact (execFrmB_of_idle (s := r) hst b).trans (r.next_raiseCmd _)
  · exact execFrmB_of_err (s := r) hst b
  · exact (execFrmB_of_sig (s := r) hst b).trans
      (congrArg (fun f => Host.Outcome.next (r.afterFrm (f, []))) (s.frm.consume.sigStep_withCtrl c b))
  · exact (execFrmB_of_len (s := r) hst b).trans
      (congrArg (fun f => Host.Outcome.next (r.afterFrm (f, []))) (s.frm.consume.lenStep_withCtrl c b))
  · exact (execFrmB_of_type (s := r) hst b).trans
      (congrArg (fun o => Host.Outcome.next (r.afterFrm o)) (s.frm.consume.typeStep_withCtrl c b))
  · exact (execFrmB_of_data (s := r) hst b).trans
      (congrArg (fun o => Host.Outcome.next (r.afterFrm o)) (s.frm.consume.dataStep_withCtrl c b))
  · exact (execFrmB_of_crc (s := r) hst b).trans
      (congrArg (fun o => Host.Outcome.next (r.afterFrm o)) (s.frm.consume.crcFieldStep_withCtrl c b))
  · exact execFrmB_of_done (s := r) hst b

/-- FRM.EOS commutes with a write to FRM_CTRL (43_framing.md R244). -/
theorem execFrmEos_withFrmCtrl {s t : State} (hexec : execFrmEos s = .next t) (c : BitVec 3) :
    execFrmEos (s.withFrmCtrl c) = .next (t.withFrmCtrl c) := by
  let r : State := s.withFrmCtrl c
  obtain ⟨hst, rfl⟩ | ⟨hst, rfl⟩ | ⟨hst, rfl⟩ := execFrmEos_cases hexec
  · rw [State.raiseCmd_eq]
    exact (execFrmEos_of_idle (s := r) hst).trans (r.next_raiseCmd _)
  · exact execFrmEos_of_ended (s := r) hst
  · exact execFrmEos_of_running (s := r) hst

/-- Settles O55: in each state of the unit the two commands read and write other fields than FRM_CTRL. -/
theorem frmReadsOnlyTheLatchedControl : Obligations.FrmReadsOnlyTheLatchedControl := by
  rintro i s t c (⟨b, rfl⟩ | rfl) hexec
  · obtain ⟨-, -, hctrl⟩ := execFrmB_sameConfig hexec
    exact ⟨execFrmB_withFrmCtrl hexec c, hctrl⟩
  · obtain ⟨-, -, hctrl⟩ := execFrmEos_sameConfig hexec
    exact ⟨execFrmEos_withFrmCtrl hexec c, hctrl⟩

end Sys2Proof.Machine
end

section

namespace Sys2Proof.Machine

/-! ### The transition table of the FRM unit (43_framing.md R240) -/

theorem execFltB_frm {b : Byte} {s t : State} (h : execFltB b s = .next t) : t.frm = s.frm := by
  by_cases hst : s.flt.st = .idle
  · rw [execFltB_frame_of_idle hst h]
  · rw [execFltB_frame hst h]

/-- No command but FRM.START, FRM.B, FRM.EOS and SRST touches the FRM unit (40_control.md R131). -/
theorem exec_frm_eq {i : Instr} {s t : State} (hsrst : i ≠ .srst) (hstart : i ≠ .frmStart) (hb : ∀ b, i ≠ .frmB b)
    (heos : i ≠ .frmEos) (h : exec i s = .next t) : t.frm = s.frm := by
  cases i with
  | srst => exact absurd rfl hsrst
  | frmStart => exact absurd rfl hstart
  | frmB b => exact absurd rfl (hb b)
  | frmEos => exact absurd rfl heos
  | fltB b => exact execFltB_frm h
  | nop | clrerr | crcInit | crcB _ | crcLd | fltStart => cases h; rfl

theorem FrmUnit.Takes.frm_eq {s t : State} {b : Byte} {r : FrmUnit × List FrmRecord} (h : s.frm.Takes b r)
    (hexec : exec (.frmB b) s = .next t) : t.frm = r.1 := by
  cases (h s rfl).symm.trans hexec
  rfl

/-- Outside a stream FRM.B takes no edge. -/
theorem exec_frmB_st_of_outside {s t : State} {b : Byte} (hexec : exec (.frmB b) s = .next t)
    (hst : s.frm.st = .idle ∨ s.frm.st = .err ∨ s.frm.st = .done) : t.frm.st = s.frm.st := by
  obtain hst | hst | hst := hst
  · cases (execFrmB_of_idle hst b).symm.trans hexec
    rw [State.raiseCmd_eq]
  · cases (execFrmB_of_err hst b).symm.trans hexec
    rfl
  · cases (execFrmB_of_done hst b).symm.trans hexec
    rfl

/-- The order check on the completed type field, its conditions in words (43_framing.md R255). -/
theorem FrmUnit.orderFails_endType_iff (f : FrmUnit) (b : Byte) :
    (f.endType b).OrderFails ↔
      f.lctrl.getLsbD 2 = true ∧
        ((f.ihdrSeen = false ∧ (f.endType b).ctype ≠ 0x49484452) ∨
          (f.ihdrSeen = true ∧ (f.endType b).ctype = 0x49484452) ∨
          ((f.endType b).ctype = 0x70485973 ∧ (f.physSeen = true ∨ f.idatSeen = true)) ∨
          ((f.endType b).ctype = 0x49454E44 ∧ f.idatSeen = false)) :=
  and_congr_right fun _ => (f.endType b).orderViolation_iff _

section

variable {s t : State} (h : s.frm.Inv) {b : Byte} (hexec : exec (.frmB b) s = .next t) (hne : t.frm.st ≠ s.frm.st)

include hexec hne

/-- The edges out of SIG: the eighth byte matches, or a byte differs. -/
theorem exec_frmB_edge_of_sig (hst : s.frm.st = .sig) :
    s.frm.fidx = 7 ∧ b = 0x0A ∧ t.frm.st = .len ∨ signature[s.frm.fidx.toNat]? ≠ some b ∧ t.frm.st = .err := by
  cases (execFrmB_of_sig hst b).symm.trans hexec
  rw [State.afterFrm_frm] at hne ⊢
  obtain ⟨hb, h8, heq⟩ | ⟨hb, h8, heq⟩ | ⟨hb, heq⟩ := s.frm.consume.sigStep_cases b <;> rw [heq] at hne ⊢
  · have h7 : s.frm.fidx.toNat = 7 := fidx_succ_eq_eight_iff.mp h8
    rw [s.frm.consume_fidx, h7] at hb
    exact .inl ⟨BitVec.eq_of_toNat_eq h7, (Option.some.inj hb).symm, rfl⟩
  · exact absurd rfl hne
  · exact .inr ⟨hb, rfl⟩

/-- The edge out of DATA: the last data byte. -/
theorem exec_frmB_edge_of_data (hst : s.frm.st = .data) : s.frm.rem = 1 ∧ t.frm.st = .crc := by
  by_cases hrem : s.frm.rem = 1
  · exact ⟨hrem, by rw [(FrmUnit.takes_endData hst hrem).frm_eq hexec]; rfl⟩
  · exact absurd (by rw [(FrmUnit.takes_addDataByte hst hrem).frm_eq hexec]; rfl) hne

include h

/-- The edge out of LEN: the field's fourth byte. -/
theorem FrmUnit.Inv.exec_frmB_edge_of_len (hst : s.frm.st = .len) : s.frm.fidx = 3 ∧ t.frm.st = .type := by
  obtain hlt | hlast := Nat.lt_or_eq_of_le (h.fidx_field (.inl hst))
  · exact absurd (by rw [(FrmUnit.takes_addLenByte hst hlt).frm_eq hexec]; rfl) hne
  · exact ⟨BitVec.eq_of_toNat_eq hlast, by rw [(FrmUnit.takes_endLen hst hlast).frm_eq hexec]; rfl⟩

/-- The edges out of TYPE: the field's fourth byte, by the order check and FRM_LEN. -/
theorem FrmUnit.Inv.exec_frmB_edge_of_type (hst : s.frm.st = .type) :
    s.frm.fidx = 3 ∧
      ((s.frm.endType b).OrderFails ∧ t.frm.st = .err ∨
        ¬ (s.frm.endType b).OrderFails ∧ t.frm.st = if s.frm.len = 0 then .crc else .data) := by
  obtain hlt | hlast := Nat.lt_or_eq_of_le (h.fidx_field (.inr (.inl hst)))
  · exact absurd (by rw [(FrmUnit.takes_addTypeByte hst hlt).frm_eq hexec]; rfl) hne
  · refine ⟨BitVec.eq_of_toNat_eq hlast, ?_⟩
    by_cases hfails : (s.frm.endType b).OrderFails
    · exact .inl ⟨hfails, by rw [(FrmUnit.takes_endType_of_orderFails hst hlast hfails).frm_eq hexec]; rfl⟩
    · exact .inr ⟨hfails, by rw [(FrmUnit.takes_endType_of_not_orderFails hst hlast hfails).frm_eq hexec]; rfl⟩

/-- The edges out of CRC: the field's fourth byte, by the comparison and the chunk type. -/
theorem FrmUnit.Inv.exec_frmB_edge_of_crc (hst : s.frm.st = .crc) :
    s.frm.fidx = 3 ∧
      ((s.frm.endCrc b).CrcFails ∧ t.frm.st = .err ∨
        ¬ (s.frm.endCrc b).CrcFails ∧ t.frm.st = if s.frm.ctype = typeIEND then .done else .len) := by
  obtain hlt | hlast := Nat.lt_or_eq_of_le (h.fidx_field (.inr (.inr hst)))
  · exact absurd (by rw [(FrmUnit.takes_addCrcByte hst hlt).frm_eq hexec]; rfl) hne
  · refine ⟨BitVec.eq_of_toNat_eq hlast, ?_⟩
    by_cases hfails : (s.frm.endCrc b).CrcFails
    · exact .inl ⟨hfails, by rw [(FrmUnit.takes_endCrc_of_crcFails hst hlast hfails).frm_eq hexec]; rfl⟩
    · exact .inr ⟨hfails, by rw [(FrmUnit.takes_endCrc_of_not_crcFails hst hlast hfails).frm_eq hexec]; rfl⟩

end

/-- Settles O56: SRST, FRM.START and FRM.EOS have their own edges, FRM.B those of each state of the unit, and no other
command touches it. -/
theorem frmStateChangesOnlyAlongItsTable : Obligations.FrmStateChangesOnlyAlongItsTable := by
  intro i s t h hexec hne
  by_cases hsrst : i = .srst
  · subst hsrst
    cases hexec
    exact .inl ⟨rfl, rfl⟩
  by_cases hstart : i = .frmStart
  · subst hstart
    cases hexec
    exact .inr (.inl ⟨rfl, rfl⟩)
  by_cases heos : i = .frmEos
  · subst heos
    obtain ⟨-, rfl⟩ | ⟨-, rfl⟩ | ⟨hrun, rfl⟩ := execFrmEos_cases hexec
    · exact absurd (by rw [State.raiseCmd_eq]) hne
    · exact absurd rfl hne
    · exact .inr (.inr (.inl ⟨rfl, rfl, hrun⟩))
  by_cases hb : ∃ b, i = .frmB b
  · obtain ⟨b, rfl⟩ := hb
    refine .inr (.inr (.inr ⟨b, rfl, ?_⟩))
    intro sigBytes type violation orderFails crcFails
    have horder : (s.frm.endType b).OrderFails ↔ orderFails := s.frm.orderFails_endType_iff b
    cases hst : s.frm.st with
    | idle | err | done => exact absurd (exec_frmB_st_of_outside hexec (by simp [hst])) hne
    | sig =>
      obtain ⟨h7, hbyte, hnext⟩ | ⟨hdiffers, hnext⟩ := exec_frmB_edge_of_sig hexec hne hst
      · exact .inl ⟨rfl, h7, hbyte, hnext⟩
      · exact .inr (.inl ⟨rfl, hdiffers, hnext⟩)
    | len =>
      obtain ⟨h3, hnext⟩ := h.frm.exec_frmB_edge_of_len hexec hne hst
      exact .inr (.inr (.inl ⟨rfl, h3, hnext⟩))
    | type =>
      obtain ⟨h3, ⟨hfails, hnext⟩ | ⟨hok, hnext⟩⟩ := h.frm.exec_frmB_edge_of_type hexec hne hst
      · exact .inr (.inr (.inr (.inl ⟨rfl, h3, horder.mp hfails, hnext⟩)))
      · by_cases hlen : s.frm.len = 0
        · rw [if_pos hlen] at hnext
          exact .inr (.inr (.inr (.inr (.inr (.inl ⟨rfl, h3, mt horder.mpr hok, hlen, hnext⟩)))))
        · rw [if_neg hlen] at hnext
          exact .inr (.inr (.inr (.inr (.inl ⟨rfl, h3, mt horder.mpr hok, hlen, hnext⟩))))
    | data =>
      obtain ⟨hrem, hnext⟩ := exec_frmB_edge_of_data hexec hne hst
      exact .inr (.inr (.inr (.inr (.inr (.inr (.inl ⟨rfl, hrem, hnext⟩))))))
    | crc =>
      obtain ⟨h3, ⟨hfails, hnext⟩ | ⟨hok, hnext⟩⟩ := h.frm.exec_frmB_edge_of_crc hexec hne hst
      · exact .inr (.inr (.inr (.inr (.inr (.inr (.inr (.inl ⟨rfl, h3, hfails, hnext⟩)))))))
      · exact .inr (.inr (.inr (.inr (.inr (.inr (.inr (.inr ⟨rfl, h3, hok, hnext⟩)))))))
  · exact absurd (congrArg FrmUnit.st (exec_frm_eq hsrst hstart (not_exists.mp hb) heos hexec)) hne

end Sys2Proof.Machine
end

section

namespace Sys2Proof.Machine

/-! ### What FRM.B can do inside a stream (43_framing.md R241, R245) -/

/-- A step of FRM.B from unit `f` either enters ERR with code 1, 2 or 3 and emits nothing, or keeps the code and stays
out of ERR (43_framing.md R241). -/
def FrmUnit.RaisesOrContinues (f : FrmUnit) (r : FrmUnit × List FrmRecord) : Prop :=
  (r.1.st = .err ∧ r.1.code.bits ∈ ([1, 2, 3] : List (BitVec 4)) ∧ r.2 = []) ∨ (r.1.st ≠ .err ∧ r.1.code = f.code)

theorem FrmUnit.raisesOrContinues_raise (f g : FrmUnit) {c : FrmCode} (hc : c.bits ∈ ([1, 2, 3] : List (BitVec 4))) :
    f.RaisesOrContinues (g.raise c, []) :=
  .inl ⟨rfl, hc, rfl⟩

section

variable {f : FrmUnit} (b : Byte)

theorem FrmUnit.raisesOrContinues_sigStep (h : f.st ≠ .err) : f.RaisesOrContinues (f.sigStep b, []) := by
  obtain ⟨-, -, heq⟩ | ⟨-, -, heq⟩ | ⟨-, heq⟩ := f.sigStep_cases b <;> rw [heq]
  · exact .inr ⟨nofun, rfl⟩
  · exact .inr ⟨h, rfl⟩
  · exact f.raisesOrContinues_raise _ (by decide)

theorem FrmUnit.raisesOrContinues_lenStep (h : f.st ≠ .err) : f.RaisesOrContinues (f.lenStep b, []) := by
  unfold FrmUnit.lenStep
  dsimp only
  split
  · exact .inr ⟨nofun, rfl⟩
  · exact .inr ⟨h, rfl⟩

theorem FrmUnit.raisesOrContinues_completeType (f : FrmUnit) : f.RaisesOrContinues f.completeType := by
  obtain ⟨-, -, heq⟩ | ⟨-, heq⟩ := f.completeType_cases <;> rw [heq]
  · exact f.raisesOrContinues_raise _ (by decide)
  · refine .inr ⟨?_, rfl⟩
    dsimp only
    split <;> nofun

theorem FrmUnit.raisesOrContinues_typeStep (h : f.st ≠ .err) : f.RaisesOrContinues (f.typeStep b) := by
  unfold FrmUnit.typeStep
  dsimp only
  split
  · exact FrmUnit.raisesOrContinues_completeType _
  · exact .inr ⟨h, rfl⟩

theorem FrmUnit.raisesOrContinues_dataStep (h : f.st ≠ .err) : f.RaisesOrContinues (f.dataStep b) := by
  by_cases hrem : f.rem = 1
  · rw [FrmUnit.dataStep_last hrem]
    exact .inr ⟨nofun, rfl⟩
  · rw [FrmUnit.dataStep_mid hrem]
    exact .inr ⟨h, rfl⟩

theorem FrmUnit.raisesOrContinues_completeCrc (f : FrmUnit) : f.RaisesOrContinues f.completeCrc := by
  obtain ⟨-, -, heq⟩ | ⟨-, heq⟩ := f.completeCrc_cases <;> rw [heq]
  · exact f.raisesOrContinues_raise _ (by decide)
  · refine .inr ⟨?_, rfl⟩
    dsimp only
    split <;> nofun

theorem FrmUnit.raisesOrContinues_crcFieldStep (h : f.st ≠ .err) : f.RaisesOrContinues (f.crcFieldStep b) := by
  unfold FrmUnit.crcFieldStep
  dsimp only
  split
  · exact FrmUnit.raisesOrContinues_completeCrc _
  · exact .inr ⟨h, rfl⟩

/-- Outside IDLE and ERR what FRM.B does is a function of the unit and the byte (43_framing.md R245), and raises an
error or emits as R241 says. -/
theorem FrmUnit.exists_takes (hidle : f.st ≠ .idle) (herr : f.st ≠ .err) :
    ∃ r, f.Takes b r ∧ f.RaisesOrContinues r := by
  cases hst : f.st with
  | idle => exact absurd hst hidle
  | err => exact absurd hst herr
  | sig => exact ⟨_, by rintro s rfl; exact execFrmB_of_sig hst b, f.consume.raisesOrContinues_sigStep b herr⟩
  | len => exact ⟨_, by rintro s rfl; exact execFrmB_of_len hst b, f.consume.raisesOrContinues_lenStep b herr⟩
  | type => exact ⟨_, by rintro s rfl; exact execFrmB_of_type hst b, f.consume.raisesOrContinues_typeStep b herr⟩
  | data => exact ⟨_, by rintro s rfl; exact execFrmB_of_data hst b, f.consume.raisesOrContinues_dataStep b herr⟩
  | crc => exact ⟨_, by rintro s rfl; exact execFrmB_of_crc hst b, f.consume.raisesOrContinues_crcFieldStep b herr⟩
  | done => exact ⟨(f.consume.trailStep, []), by rintro s rfl; exact execFrmB_of_done hst b, .inr ⟨herr, rfl⟩⟩

end

end Sys2Proof.Machine
end

section

namespace Sys2Proof.Machine

/-! ### Command errors (60_exceptions.md R306, R307) -/

theorem execFltB_cmdCode {b : Byte} {s t : State} (h : execFltB b s = .next t) :
    t.cmdCode = s.cmdCode ∨ t = s.raiseCmd .notStarted := by
  by_cases hst : s.flt.st = .idle
  · cases (execFltB_of_idle hst b).symm.trans h
    exact .inr rfl
  · exact .inl (by rw [execFltB_frame hst h])

theorem execFrmB_cmdCode {b : Byte} {s t : State} (h : execFrmB b s = .next t) :
    t.cmdCode = s.cmdCode ∨ t = s.raiseCmd .notStarted := by
  by_cases hst : s.frm.st = .idle
  · cases (execFrmB_of_idle hst b).symm.trans h
    exact .inr rfl
  · exact .inl (by rw [execFrmB_frame hst h])

theorem execFrmEos_cmdCode {s t : State} (h : execFrmEos s = .next t) :
    t.cmdCode = s.cmdCode ∨ t = s.raiseCmd .notStarted := by
  by_cases hst : s.frm.st = .idle
  · cases (execFrmEos_of_idle hst).symm.trans h
    exact .inr rfl
  · exact .inl (by rw [execFrmEos_frame hst h])

/-- The commands that record NOT_STARTED in IDLE (60_exceptions.md R302). -/
def NeedsStart (i : Instr) : Prop := (∃ b, i = .fltB b) ∨ (∃ b, i = .frmB b) ∨ i = .frmEos

/-- What a command can do to CMD_ECODE: keep it, clear it, or raise NOT_STARTED. -/
theorem exec_cmdCode {i : Instr} {s t : State} (h : exec i s = .next t) :
    t.cmdCode = s.cmdCode ∨ (t.cmdCode = .noError ∧ (i = .clrerr ∨ i = .srst)) ∨
      (t = s.raiseCmd .notStarted ∧ NeedsStart i) := by
  cases i with
  | fltB b => exact (execFltB_cmdCode h).imp_right fun ht => .inr ⟨ht, .inl ⟨b, rfl⟩⟩
  | frmB b => exact (execFrmB_cmdCode h).imp_right fun ht => .inr ⟨ht, .inr (.inl ⟨b, rfl⟩)⟩
  | frmEos => exact (execFrmEos_cmdCode h).imp_right fun ht => .inr ⟨ht, .inr (.inr rfl)⟩
  | clrerr => cases h; exact .inr (.inl ⟨rfl, .inl rfl⟩)
  | srst => cases h; exact .inr (.inl ⟨rfl, .inr rfl⟩)
  | nop | crcInit | crcB _ | crcLd | fltStart | frmStart => cases h; exact .inl rfl

@[simp] theorem State.hostWriteReg_cmdCode (s : State) (off : Nat) (v : Word) :
    (s.hostWriteReg off v).cmdCode = s.cmdCode := by
  obtain h | h | ⟨c, w, ht, h⟩ | ⟨c, h⟩ := s.hostWriteReg_cases off v <;> rw [h]

/-- Settles O19: a raise keeps a recorded code, and of the other events only the resets and CLRERR's word touch it. -/
theorem commandErrorIsClearedOnlyByClrerrOrReset : Obligations.CommandErrorIsClearedOnlyByClrerrOrReset := by
  intro e s t hserve hcode
  obtain ⟨rfl, rfl⟩ | ⟨off, rfl⟩ | ⟨off, v, rfl⟩ | ⟨w, err, -, -, rfl⟩ | ⟨w, i, rfl, hdecode, hexec⟩ :=
    serve_next_cases hserve
  · exact .inr ⟨rfl, .inl rfl⟩
  · exact .inl rfl
  · exact .inl (s.hostWriteReg_cmdCode off v)
  · exact .inl (congrArg State.cmdCode (State.raiseCmd_of_error hcode _))
  · obtain hkept | ⟨hcleared, rfl | rfl⟩ | ⟨rfl, -⟩ := exec_cmdCode hexec
    · exact .inl hkept
    · exact .inr ⟨hcleared, .inr ⟨w, rfl, .inl hdecode⟩⟩
    · exact .inr ⟨hcleared, .inr ⟨w, rfl, .inr hdecode⟩⟩
    · exact .inl (congrArg State.cmdCode (State.raiseCmd_of_error hcode _))

/-- With any other CMD_ECODE, `run` answers the same next state from `s`, but for CMD_ECODE itself. -/
def State.CmdCodeIrrelevant (s : State) (run : State → Host.Outcome State Fault Refusal) : Prop :=
  ∀ (t : State) (c : CmdCode), run s = .next t →
    ∃ u, run { s with cmdCode := c } = .next u ∧ { u with cmdCode := t.cmdCode } = t

/-- A raise from another CMD_ECODE differs in CMD_ECODE alone. -/
theorem State.raiseCmd_withCmdCode (s : State) (c d : CmdCode) :
    { State.raiseCmd { s with cmdCode := c } d with cmdCode := (s.raiseCmd d).cmdCode } = s.raiseCmd d := by
  simp only [State.raiseCmd_eq]

theorem State.cmdCodeIrrelevant_fltB (s : State) (b : Byte) : s.CmdCodeIrrelevant (execFltB b) := by
  intro t c hexec
  let r : State := { s with cmdCode := c }
  obtain ⟨hst, rfl⟩ | ⟨hst, rfl⟩ | ⟨hst, rfl⟩ | ⟨hst, rfl⟩ | ⟨hst, hcol, rfl⟩ := execFltB_cases hexec
  · exact ⟨_, execFltB_of_idle (s := r) hst b, s.raiseCmd_withCmdCode c _⟩
  · exact ⟨_, execFltB_of_err (s := r) hst b, rfl⟩
  · exact ⟨_, execFltB_of_done (s := r) hst b, rfl⟩
  · exact ⟨_, execFltB_of_tag (s := r) hst b, rfl⟩
  · exact ⟨_, execFltB_of_data (s := r) hst hcol b, rfl⟩

/-- FRM.B reads CMD_ECODE only where it raises it, in IDLE. -/
theorem State.cmdCodeIrrelevant_frmB (s : State) (b : Byte) : s.CmdCodeIrrelevant (execFrmB b) := by
  intro t c hexec
  let r : State := { s with cmdCode := c }
  by_cases hidle : s.frm.st = .idle
  · cases (execFrmB_of_idle hidle b).symm.trans hexec
    exact ⟨_, execFrmB_of_idle (s := r) hidle b, s.raiseCmd_withCmdCode c _⟩
  by_cases herr : s.frm.st = .err
  · cases (execFrmB_of_err herr b).symm.trans hexec
    exact ⟨_, execFrmB_of_err (s := r) herr b, rfl⟩
  · obtain ⟨q, htakes, -⟩ := FrmUnit.exists_takes b hidle herr
    cases (htakes s rfl).symm.trans hexec
    exact ⟨_, htakes r rfl, rfl⟩

theorem State.cmdCodeIrrelevant_frmEos (s : State) : s.CmdCodeIrrelevant execFrmEos := by
  intro t c hexec
  obtain ⟨hst, rfl⟩ | ⟨hst, rfl⟩ | ⟨hst, rfl⟩ := execFrmEos_cases hexec
  · exact ⟨_, execFrmEos_of_idle hst, s.raiseCmd_withCmdCode c _⟩
  · exact ⟨_, execFrmEos_of_ended hst, rfl⟩
  · exact ⟨_, execFrmEos_of_running hst, rfl⟩

/-- Settles O20: no command reads CMD_ECODE but to keep the first code when it raises its own. -/
theorem commandErrorsDoNotStopTheBlock : Obligations.CommandErrorsDoNotStopTheBlock := by
  intro i s t c hexec
  cases i with
  | fltB b => exact s.cmdCodeIrrelevant_fltB b t c hexec
  | frmB b => exact s.cmdCodeIrrelevant_frmB b t c hexec
  | frmEos => exact s.cmdCodeIrrelevant_frmEos t c hexec
  | nop | clrerr | srst | crcInit | crcB _ | crcLd | fltStart | frmStart => cases hexec; exact ⟨_, rfl, rfl⟩

end Sys2Proof.Machine
end

section

namespace Sys2Proof.Machine

/-! ### Unit errors (60_exceptions.md R301, R304, R305, 43_framing.md R241) -/

/-! #### FLT -/

theorem FltUnit.dataStep_st_ne_err {f : FltUnit} (h : f.st = .data) (draw : Nat) (b : Byte) :
    (f.dataStep draw b).st ≠ .err := by
  by_cases hmid : f.col.toNat + 1 < f.rowLen.toNat
  · simp [FltUnit.dataStep_mid hmid, h]
  · rw [FltUnit.dataStep_last hmid]
    dsimp only
    split <;> decide

/-- From `s` to `t` FLT gets no new error: its code is kept or cleared, and it does not enter ERR. -/
def State.NoNewFltError (s t : State) : Prop :=
  (t.flt.code = s.flt.code ∨ t.flt.code = .noError) ∧ (t.flt.st = .err → s.flt.st = .err)

theorem State.noNewFltError_of_eq {s t : State} (h : t.flt = s.flt) : s.NoNewFltError t := by
  simp [State.NoNewFltError, h]

/-- FLT.START records the code of the check that fails, or enters TAG (42_filter.md R192). -/
theorem FltUnit.start_error (maxRow : Nat) (f : FltUnit) :
    (f.start maxRow).code.bits ∈ ([5, 6, 7, 10] : List (BitVec 4)) ∨
      ((f.start maxRow).code = .noError ∧ (f.start maxRow).st = .tag) := by
  obtain ⟨c, hc, heq⟩ | ⟨n, -, -, -, -, heq⟩ := f.start_cases maxRow <;> rw [heq]
  · obtain rfl | rfl | rfl | rfl := hc <;> exact .inl (by simp [FltCode.bits])
  · exact .inr ⟨rfl, rfl⟩

/-- FLT.B either raises code 8 or 9 and emits nothing, or raises nothing (42_filter.md R195). -/
theorem execFltB_error {b : Byte} {s t : State} (h : execFltB b s = .next t) :
    (t.flt.code.bits ∈ ([8, 9] : List (BitVec 4)) ∧ t.fltOut = s.fltOut) ∨ s.NoNewFltError t := by
  obtain ⟨-, rfl⟩ | ⟨-, rfl⟩ | ⟨-, rfl⟩ | ⟨hst, rfl⟩ | ⟨hst, -, rfl⟩ := execFltB_cases h
  · exact .inr (State.noNewFltError_of_eq (by rw [State.raiseCmd_eq]))
  · exact .inr (State.noNewFltError_of_eq rfl)
  · exact .inl ⟨by simp [FltCode.bits], rfl⟩
  · obtain ⟨-, heq⟩ | ⟨ft, -, -, heq⟩ := s.flt.tagStep_cases b <;> rw [heq]
    · exact .inl ⟨by simp [FltCode.bits], rfl⟩
    · exact .inr ⟨.inl rfl, nofun⟩
  · obtain ⟨-, -, -, hcode, -⟩ := s.flt.dataStep_frame s.draw b
    exact .inr ⟨.inl hcode, fun herr => absurd herr (FltUnit.dataStep_st_ne_err hst _ _)⟩

/-- Which command can give FLT an error, and that it emits nothing then. -/
theorem exec_flt_error {i : Instr} {s t : State} (h : exec i s = .next t) :
    ((i = .fltStart ∧ t.flt.code.bits ∈ ([5, 6, 7, 10] : List (BitVec 4)) ∨
        (∃ b, i = .fltB b) ∧ t.flt.code.bits ∈ ([8, 9] : List (BitVec 4))) ∧ t.fltOut = s.fltOut) ∨
      s.NoNewFltError t := by
  cases i with
  | fltStart =>
    cases h
    obtain hbits | ⟨hcode, hst⟩ := s.flt.start_error s.params.maxRow.val
    · exact .inl ⟨.inl ⟨rfl, hbits⟩, rfl⟩
    · exact .inr ⟨.inr hcode, fun herr => absurd (hst.symm.trans herr) nofun⟩
  | fltB b => exact (execFltB_error h).imp_left fun ⟨hbits, hout⟩ => ⟨.inr ⟨⟨b, rfl⟩, hbits⟩, hout⟩
  | srst => cases h; exact .inr ⟨.inr rfl, nofun⟩
  | frmB b => exact .inr (State.noNewFltError_of_eq (execFrmB_flt h))
  | frmEos => exact .inr (State.noNewFltError_of_eq (execFrmEos_flt h))
  | nop | clrerr | crcInit | crcB _ | crcLd | frmStart => cases h; exact .inr (State.noNewFltError_of_eq rfl)

/-! #### FRM -/

/-- From `s` to `t` FRM gets no new error: its code is kept or cleared, and it does not enter ERR. -/
def State.NoNewFrmError (s t : State) : Prop :=
  (t.frm.code = s.frm.code ∨ t.frm.code = .noError) ∧ (t.frm.st = .err → s.frm.st = .err)

theorem State.noNewFrmError_of_eq {s t : State} (h : t.frm = s.frm) : s.NoNewFrmError t := by
  simp [State.NoNewFrmError, h]

/-- FRM.B either raises code 1, 2 or 3 and emits nothing, or raises nothing (43_framing.md R241, R245). -/
theorem exec_frmB_error {b : Byte} {s t : State} (h : exec (.frmB b) s = .next t) :
    (t.frm.code.bits ∈ ([1, 2, 3] : List (BitVec 4)) ∧ t.frmOut = s.frmOut) ∨ s.NoNewFrmError t := by
  by_cases hidle : s.frm.st = .idle
  · exact .inr (State.noNewFrmError_of_eq (by rw [execFrmB_frame_of_idle hidle h]))
  by_cases herr : s.frm.st = .err
  · cases (execFrmB_of_err herr b).symm.trans h
    exact .inr (State.noNewFrmError_of_eq rfl)
  · obtain ⟨r, htakes, ⟨-, hbits, hnil⟩ | ⟨hst, hcode⟩⟩ := FrmUnit.exists_takes b hidle herr <;>
      cases (htakes s rfl).symm.trans h
    · exact .inl ⟨hbits, by simp [hnil]⟩
    · exact .inr ⟨.inl hcode, fun hst' => absurd hst' hst⟩

/-- FRM.EOS either raises code 4 and emits nothing, or raises nothing (43_framing.md R258). -/
theorem execFrmEos_error {s t : State} (h : execFrmEos s = .next t) :
    (t.frm.code.bits = 4 ∧ t.frmOut = s.frmOut) ∨ s.NoNewFrmError t := by
  obtain ⟨-, rfl⟩ | ⟨-, rfl⟩ | ⟨-, rfl⟩ := execFrmEos_cases h
  · exact .inr (State.noNewFrmError_of_eq (by rw [State.raiseCmd_eq]))
  · exact .inr (State.noNewFrmError_of_eq rfl)
  · exact .inl ⟨rfl, rfl⟩

/-- Which command can give FRM an error, and that it emits nothing then. -/
theorem exec_frm_error {i : Instr} {s t : State} (h : exec i s = .next t) :
    (((∃ b, i = .frmB b) ∧ t.frm.code.bits ∈ ([1, 2, 3] : List (BitVec 4)) ∨
        i = .frmEos ∧ t.frm.code.bits = 4) ∧ t.frmOut = s.frmOut) ∨
      s.NoNewFrmError t := by
  cases i with
  | frmB b => exact (exec_frmB_error h).imp_left fun ⟨hbits, hout⟩ => ⟨.inl ⟨⟨b, rfl⟩, hbits⟩, hout⟩
  | frmEos => exact (execFrmEos_error h).imp_left fun ⟨hbits, hout⟩ => ⟨.inr ⟨rfl, hbits⟩, hout⟩
  | srst => cases h; exact .inr ⟨.inr rfl, nofun⟩
  | frmStart =>
    cases h
    refine .inr ⟨.inr rfl, ?_⟩
    simp only [State.setFrm_frm, FrmUnit.start]
    split <;> nofun
  | fltB b => exact .inr (State.noNewFrmError_of_eq (execFltB_frm h))
  | nop | clrerr | crcInit | crcB _ | crcLd | fltStart => cases h; exact .inr (State.noNewFrmError_of_eq rfl)

/-! #### Both units -/

/-- Settles O21: a command that sets a new code is one of those that raise it. -/
theorem eachCommandRaisesOnlyItsOwnErrors : Obligations.EachCommandRaisesOnlyItsOwnErrors := by
  intro i s t h
  refine ⟨fun hnew herror => ?cmd, fun hnew herror => ?flt, fun hnew herror => ?frm⟩
  case cmd =>
    obtain hkept | ⟨hcleared, -⟩ | ⟨rfl, hi⟩ := exec_cmdCode h
    · exact absurd hkept hnew
    · exact absurd hcleared herror
    · have hs : s.cmdCode = .noError :=
        by_contra fun hs => hnew (congrArg State.cmdCode (State.raiseCmd_of_error hs _))
      rw [State.raiseCmd_eq]
      exact ⟨if_pos hs, hi⟩
  case flt =>
    obtain ⟨hraise, -⟩ | ⟨hcode, -⟩ := exec_flt_error h
    · exact hraise
    · exact (hcode.elim hnew herror).elim
  case frm =>
    obtain ⟨hraise, -⟩ | ⟨hcode, -⟩ := exec_frm_error h
    · exact hraise
    · exact (hcode.elim hnew herror).elim

/-- Settles O22: a command that takes a unit into ERR is one that raises its error, and those emit nothing. -/
theorem anErroringCommandEmitsNoRecord : Obligations.AnErroringCommandEmitsNoRecord := by
  intro i s t h
  refine ⟨fun hs ht => ?flt, fun hs ht => ?frm⟩
  case flt =>
    obtain ⟨-, hout⟩ | ⟨-, hst⟩ := exec_flt_error h
    · exact hout
    · exact absurd (hst ht) hs
  case frm =>
    obtain ⟨-, hout⟩ | ⟨-, hst⟩ := exec_frm_error h
    · exact hout
    · exact absurd (hst ht) hs

end Sys2Proof.Machine
end

section

namespace Sys2Proof.Machine

/-! ### In ERR a unit waits for its START or for SRST (60_exceptions.md R309, R310) -/

theorem execFrmB_fltOut {b : Byte} {s t : State} (h : execFrmB b s = .next t) : t.fltOut = s.fltOut := by
  by_cases hst : s.frm.st = .idle
  · rw [execFrmB_frame_of_idle hst h]
  · rw [execFrmB_frame hst h]

theorem execFrmEos_fltOut {s t : State} (h : execFrmEos s = .next t) : t.fltOut = s.fltOut := by
  by_cases hst : s.frm.st = .idle
  · rw [execFrmEos_frame_of_idle hst h]
  · rw [execFrmEos_frame hst h]

theorem execFltB_frmOut {b : Byte} {s t : State} (h : execFltB b s = .next t) : t.frmOut = s.frmOut := by
  by_cases hst : s.flt.st = .idle
  · rw [execFltB_frame_of_idle hst h]
  · rw [execFltB_frame hst h]

theorem execFrmEos_frmOut {s t : State} (h : execFrmEos s = .next t) : t.frmOut = s.frmOut := by
  obtain ⟨-, rfl⟩ | ⟨-, rfl⟩ | ⟨-, rfl⟩ := execFrmEos_cases h
  · rw [State.raiseCmd_eq]
  all_goals rfl

/-- No command but FLT.B emits to FLT_OUT (10_state.md R63). -/
theorem exec_fltOut_eq {i : Instr} {s t : State} (hb : ∀ b, i ≠ .fltB b) (h : exec i s = .next t) :
    t.fltOut = s.fltOut := by
  cases i with
  | fltB b => exact absurd rfl (hb b)
  | frmB b => exact execFrmB_fltOut h
  | frmEos => exact execFrmEos_fltOut h
  | nop | clrerr | srst | crcInit | crcB _ | crcLd | fltStart | frmStart => cases h; rfl

/-- No command but FRM.B emits to FRM_OUT (10_state.md R63). -/
theorem exec_frmOut_eq {i : Instr} {s t : State} (hb : ∀ b, i ≠ .frmB b) (h : exec i s = .next t) :
    t.frmOut = s.frmOut := by
  cases i with
  | frmB b => exact absurd rfl (hb b)
  | fltB b => exact execFltB_frmOut h
  | frmEos => exact execFrmEos_frmOut h
  | nop | clrerr | srst | crcInit | crcB _ | crcLd | fltStart | frmStart => cases h; rfl

/-- A command completes in every state in which FLT is outside DATA. -/
theorem exec_completes {s : State} (hst : s.flt.st ≠ .data) (i : Instr) : ∃ t, exec i s = .next t := by
  obtain hnext | ⟨-, hdata, -⟩ := exec_total i s
  · exact hnext
  · exact absurd hdata hst

/-- Settles O23: in ERR a unit's own data commands answer the state itself, and every other command but its START and
SRST leaves the unit and its stream alone in any state. -/
theorem onlyStartOrResetLeavesErr : Obligations.OnlyStartOrResetLeavesErr := by
  refine fun i s => ⟨fun herr hstart hsrst => ?flt, fun herr hstart hsrst t h => ?frm⟩
  case flt =>
    by_cases hb : ∃ b, i = .fltB b
    · obtain ⟨b, rfl⟩ := hb
      exact ⟨s, execFltB_of_err herr b, rfl, rfl, fun _ => rfl⟩
    · obtain ⟨t, h⟩ := exec_completes (s := s) (by simp [herr]) i
      exact ⟨t, h, exec_flt_eq hsrst hstart (not_exists.mp hb) h, exec_fltOut_eq (not_exists.mp hb) h,
        fun hfltB => absurd hfltB hb⟩
  case frm =>
    by_cases hdata : (∃ b, i = .frmB b) ∨ i = .frmEos
    · have hself : exec i s = .next s := by
        obtain ⟨b, rfl⟩ | rfl := hdata
        · exact execFrmB_of_err herr b
        · exact execFrmEos_of_ended (.inr herr)
      cases hself.symm.trans h
      exact ⟨rfl, rfl, fun _ => rfl⟩
    · obtain ⟨hb, heos⟩ := not_or.mp hdata
      exact ⟨exec_frm_eq hsrst hstart (not_exists.mp hb) heos h, exec_frmOut_eq (not_exists.mp hb) h,
        fun hdata' => absurd hdata' hdata⟩

end Sys2Proof.Machine
end
